-- ==== Sys2Proof/Word.lean ====
section
/-! DEFINITION. The widths of the machine's values. Every value is unsigned (spec/00_scope.md R8-R10): a register of
width `N` is a `BitVec N`, so an assignment to it is `trunc_N` and its `+`, `-` wrap modulo `2^N`; bit 0 is the least
significant bit; `a ++ b` is the spec's concatenation `a : b`, with `a` in the high bits. -/

namespace Sys2Proof

/-- A byte: a general register, a timer, a memory cell, the immediate NN (R6, R92). -/
abbrev Byte := BitVec 8

/-- Sixteen bits: an instruction word, PC, I, a stack entry (R6, R24, R27, R28). -/
abbrev Word := BitVec 16

/-- Four bits: the fields F, X, Y, N of an instruction word (R92). -/
abbrev Nibble := BitVec 4

/-- Twelve bits: the immediate NNN (R92). -/
abbrev Addr := BitVec 12

end Sys2Proof
end

