-- ==== Sys2Proof/Config.lean ====
section
/-! DEFINITION. What the implementation fixes (spec/00_scope.md R6) and the block's one free input byte (R7, R252). -/

namespace Sys2Proof.Config

/-- MEM_SIZE: bytes of memory; every access reduces its address modulo it (R6, R61). -/
@[simp] def memSize : Nat := 4096

/-- FONT_SIZE: the glyph ROM is `0 .. fontSize - 1`, 0x000-0x04F (R6, R66). -/
@[simp] def fontSize : Nat := 80

/-- GLYPH_STRIDE: bytes per glyph (R6, R65). -/
@[simp] def glyphStride : Nat := 5

/-- LOAD_ORIGIN: where a cartridge is loaded and where PC starts (R6, R281). -/
@[simp] def loadOrigin : Nat := 0x200

/-- MAX_CART: the most bytes the loader takes (R6, R260). -/
@[simp] def maxCart : Nat := 3584

/-- FB_W: columns of the framebuffer (R6). -/
@[simp] def fbW : Nat := 64

/-- FB_H: rows of the framebuffer (R6). -/
@[simp] def fbH : Nat := 32

/-- FREE VALUE. The byte on the input `rnd[7:0]` at the step numbered `n`, where the host's bytes have not been written
down ahead in `State.rndIn`: "a free input: a model takes it as a draw under no law" (R252). It has no body, so nothing
can be proved of its value (notes/assumptions/1.md). -/
opaque rnd : Nat → Byte

end Sys2Proof.Config
end

