-- ==== Sys2Proof/Syntax.lean ====
section
/-! DEFINITION. The 34 instructions of spec/30_encoding.md R96, one constructor per row, in the table's order, with the
fields of the word that the row's pattern names (R92, R93). An operand's type is exactly its field's range. -/

namespace Sys2Proof

/-- A general register's number, "a 4-bit field of its word, so every register number an instruction can name is in
range" (R20). -/
abbrev Reg := Fin 16

/-- Register 15, the flags register (R21). -/
abbrev VF : Reg := 15

/-- Register 0, the offset of BNNN (R138). -/
abbrev V0 : Reg := 0

/-- The instructions. The comment gives pattern and assembler form (R96, R100). -/
inductive Instr where
  | cls                              -- 00E0  CLS
  | ret                              -- 00EE  RET
  | jp      (nnn : Addr)             -- 1NNN  JP addr
  | call    (nnn : Addr)             -- 2NNN  CALL addr
  | seImm   (x : Reg) (nn : Byte)    -- 3XNN  SE Vx, byte
  | sneImm  (x : Reg) (nn : Byte)    -- 4XNN  SNE Vx, byte
  | seReg   (x y : Reg)              -- 5XY0  SE Vx, Vy
  | ldImm   (x : Reg) (nn : Byte)    -- 6XNN  LD Vx, byte
  | addImm  (x : Reg) (nn : Byte)    -- 7XNN  ADD Vx, byte
  | ldReg   (x y : Reg)              -- 8XY0  LD Vx, Vy
  | orReg   (x y : Reg)              -- 8XY1  OR Vx, Vy
  | andReg  (x y : Reg)              -- 8XY2  AND Vx, Vy
  | xorReg  (x y : Reg)              -- 8XY3  XOR Vx, Vy
  | addReg  (x y : Reg)              -- 8XY4  ADD Vx, Vy
  | subReg  (x y : Reg)              -- 8XY5  SUB Vx, Vy
  | shr     (x y : Reg)              -- 8XY6  SHR Vx (Vy)   y is carried, and ignored by the machine (R95, R164)
  | subn    (x y : Reg)              -- 8XY7  SUBN Vx, Vy
  | shl     (x y : Reg)              -- 8XYE  SHL Vx (Vy)   y as in SHR
  | sneReg  (x y : Reg)              -- 9XY0  SNE Vx, Vy
  | ldI     (nnn : Addr)             -- ANNN  LD I, addr
  | jpV0    (nnn : Addr)             -- BNNN  JP V0, addr
  | rnd     (x : Reg) (nn : Byte)    -- CXNN  RND Vx, byte
  | drw     (x y : Reg) (n : Nibble) -- DXYN  DRW Vx, Vy, nibble
  | skp     (x : Reg)                -- EX9E  SKP Vx
  | sknp    (x : Reg)                -- EXA1  SKNP Vx
  | ldVxDt  (x : Reg)                -- FX07  LD Vx, DT
  | ldVxK   (x : Reg)                -- FX0A  LD Vx, K
  | ldDtVx  (x : Reg)                -- FX15  LD DT, Vx
  | ldStVx  (x : Reg)                -- FX18  LD ST, Vx
  | addI    (x : Reg)                -- FX1E  ADD I, Vx
  | ldF     (x : Reg)                -- FX29  LD F, Vx
  | ldB     (x : Reg)                -- FX33  LD B, Vx
  | ldMemVx (x : Reg)                -- FX55  LD [I], Vx
  | ldVxMem (x : Reg)                -- FX65  LD Vx, [I]
  deriving DecidableEq, Repr

end Sys2Proof
end

