-- ==== Sys2Proof/Machine/State.lean ====
section
/-! DEFINITION. The machine state (spec/10_state.md R20-R38: "the complete architectural state is V[0..15], VF's flag
role included, PC, I, SP, stack[0..15], DT, ST, FB, redraw_pending, key[0..15] and mem[0..4095]", R35), the block's
`diag` output and `rnd` input (spec/60_exceptions.md R241, R252), and its value after reset (R37). -/

namespace Sys2Proof.Machine

/-- Memory: the bytes that differ from what they hold after reset, as (address, byte) pairs in one canonical form
(`Memory.wf`). An unlisted address reads as its reset contents (`resetByte` in Machine/Memory.lean; R37, R65). -/
abbrev Memory := List Host.Cell

/-- The framebuffer: 32 rows of 64 one-bit pixels, `FB[y][x]` being bit `x` of row `y` (R31). -/
abbrev Framebuffer := Vector (BitVec 64) 32

/-- The diagnostic codes of R241. -/
inductive DiagCode where
  /-- Code 1: a word not in the opcode table (R243). -/
  | unknownOpcode
  /-- Code 2: CALL with a full stack (R244). -/
  | stackOverflow
  /-- Code 3: RET with an empty stack (R245). -/
  | stackUnderflow
  deriving DecidableEq, Repr

/-- A diagnostic record `(code, pc, word)` (R241). -/
structure Diag where
  code : DiagCode
  pc : Word
  word : Word
  deriving DecidableEq, Repr

/-- The machine. -/
structure State where
  /-- V[0..15] (R20); V[15] is VF (R21). -/
  v : Vector Byte 16
  /-- PC (R24). -/
  pc : Word
  /-- I (R27). -/
  i : Word
  /-- SP, the count of pushed entries, 0 to 16 inclusive (R29). -/
  sp : Fin 17
  /-- stack[0..15] (R28). -/
  stack : Vector Word 16
  /-- DT, the delay timer (R30). -/
  dt : Byte
  /-- ST, the sound timer (R30). -/
  st : Byte
  /-- FB (R31). -/
  fb : Framebuffer
  /-- redraw_pending (R32). -/
  redraw : Bool
  /-- key[0..15], true = pressed (R33). -/
  keys : Vector Bool 16
  /-- mem[0..4095] (R34). -/
  mem : Memory
  /-- THE MODEL'S OWN: the block's `diag` output for the last step, `none` being `diag_valid = 0` (R241, R255). It is an
  output, rewritten by every step and read by none (R248; notes/assumptions/2.md). -/
  diag : Option Diag
  /-- THE MODEL'S OWN: the bytes the host has yet to put on the `rnd` input, one for each coming step (R252, R261); where
  the list has run out the input is the free value `Config.rnd` (notes/assumptions/1.md). -/
  rndIn : List Byte
  /-- THE MODEL'S OWN: the number of steps so far, which makes the free `rnd` of each step a fresh one
  (notes/assumptions/1.md). -/
  draws : Nat
  deriving DecidableEq, Repr

/-- The faults: none. "The block has no trap mechanism", no memory access faults and fetch cannot fault (R240, R246, R61,
R91), so no step ends in a fault, and this type has no constructor. Safe: a step can stop nowhere. -/
inductive Fault where
  deriving DecidableEq, Repr

/-- The refusals. -/
inductive Refusal where
  /-- Raised by `exec`'s arm of an instruction that has no meaning in the model yet, under the table's mnemonic. No arm
  raises it: every instruction has its meaning. Safe: it would stop where the hardware goes on. -/
  | notModelled (mnemonic : String)
  deriving DecidableEq, Repr

/-- The state after reset (R37, R280, R281): PC is 0x200, memory holds the font and zeros, and all else is zero, empty
or released. The spec gives these as decided values (its decision D4, notes/assumptions/3.md). -/
def State.reset : State where
  v := Vector.replicate 16 0#8
  pc := 0x200#16
  i := 0#16
  sp := 0
  stack := Vector.replicate 16 0#16
  dt := 0#8
  st := 0#8
  fb := Vector.replicate 32 0#64
  redraw := false
  keys := Vector.replicate 16 false
  mem := []
  diag := none
  rndIn := []
  draws := 0

end Sys2Proof.Machine
end

