-- ==== Sys2Proof/Machine/Memory.lean ====
section
/-! DEFINITION. Memory (spec/20_memory.md R60-R66): the font, what an unlisted address reads as, reading and writing one
cell. Cells are reached by their 12-bit address as a number; the reduction of a computed address is `addr12`. -/

namespace Sys2Proof.Machine

/-- The 16 glyphs of R65, five bytes each, top row first. -/
def fontGlyphs : List (List Byte) :=
  [[0xF0, 0x90, 0x90, 0x90, 0xF0], [0x20, 0x60, 0x20, 0x20, 0x70], [0xF0, 0x10, 0xF0, 0x80, 0xF0],
   [0xF0, 0x10, 0xF0, 0x10, 0xF0], [0x90, 0x90, 0xF0, 0x10, 0x10], [0xF0, 0x80, 0xF0, 0x10, 0xF0]] ++
  [[0xF0, 0x80, 0xF0, 0x90, 0xF0], [0xF0, 0x10, 0x20, 0x40, 0x40], [0xF0, 0x90, 0xF0, 0x90, 0xF0],
   [0xF0, 0x90, 0xF0, 0x10, 0xF0], [0xF0, 0x90, 0xF0, 0x90, 0x90]] ++
  [[0xE0, 0x90, 0xE0, 0x90, 0xE0], [0xF0, 0x80, 0x80, 0x80, 0xF0], [0xE0, 0x90, 0x90, 0x90, 0xE0],
   [0xF0, 0x80, 0xF0, 0x80, 0xF0], [0xF0, 0x80, 0xF0, 0x80, 0x80]]

/-- The font byte at address `a`: glyph `d` occupies bytes `5d` to `5d + 4` (R65). Zero past the font. -/
def fontByte (a : Nat) : Byte :=
  (fontGlyphs.getD (a / Config.glyphStride) []).getD (a % Config.glyphStride) 0#8

/-- What a cell holds after reset: the font below 0x050, zero above (R37). -/
def resetByte (a : Nat) : Byte :=
  if a < Config.fontSize then fontByte a else 0#8

/-- "Every memory access presents a 12-bit address": the low 12 bits of the exact address computed (R61). -/
def addr12 (a : Nat) : Nat := a % Config.memSize

/-- The byte at a cell: the listed one, else what the cell holds after reset. -/
def Memory.read : Memory → Nat → Byte
  | [], a => resetByte a
  | (b, v) :: rest, a => if b = a then v else Memory.read rest a

/-- The memory without an entry at `a`. -/
def Memory.erase : Memory → Nat → Memory
  | [], _ => []
  | (b, v) :: rest, a => if b = a then Memory.erase rest a else (b, v) :: Memory.erase rest a

/-- An entry put in its place in the rising order of addresses. -/
def Memory.insert : Memory → Nat → Byte → Memory
  | [], a, v => [(a, v)]
  | (b, u) :: rest, a, v => if a < b then (a, v) :: (b, u) :: rest else (b, u) :: Memory.insert rest a v

/-- Set one cell: its old entry goes, and a new one is listed unless the value is the reset contents. -/
def Memory.write (m : Memory) (a : Nat) (v : Byte) : Memory :=
  if v = resetByte a then m.erase a else (m.erase a).insert a v

/-- MemRead (R62): the cell at the low 12 bits of the address. -/
def Memory.load (m : Memory) (a : Nat) : Byte := m.read (addr12 a)

/-- MemWrite (R63): dropped in the glyph ROM, "silently, with no diagnostic and no other effect". -/
def Memory.store (m : Memory) (a : Nat) (x : Byte) : Memory :=
  if addr12 a < Config.fontSize then m else m.write (addr12 a) x

/-- MemRead of the `n` bytes at `a`, `a + 1`, … in ascending order (R68). -/
def Memory.loadList (m : Memory) : Nat → Nat → List Byte
  | _, 0 => []
  | a, n + 1 => m.load a :: Memory.loadList m (a + 1) n

/-- MemWrite of the bytes given at `a`, `a + 1`, … in ascending order (R68). -/
def Memory.storeList : Memory → Nat → List Byte → Memory
  | m, _, [] => m
  | m, a, b :: bs => Memory.storeList (m.store a b) (a + 1) bs

/-- Set the cells from `a` on to the bytes given, in ascending order (R260's loop). -/
def Memory.writeList : Memory → Nat → List Byte → Memory
  | m, _, [] => m
  | m, a, b :: bs => Memory.writeList (m.write a b) (a + 1) bs

/-- The canonical form: addresses strictly rising and inside memory, and no entry equal to the reset contents, so that
equal memories are equal lists. -/
abbrev Memory.wf (m : Memory) : Prop :=
  m.Pairwise (fun c d => c.1 < d.1) ∧ ∀ c ∈ m, c.1 < Config.memSize ∧ c.2 ≠ resetByte c.1

end Sys2Proof.Machine
end

