-- ==== Sys2Proof/Machine/Ops.lean ====
section
/-! DEFINITION. The operations every instruction is made of: the primitives of spec/00_scope.md R11 over registers, memory
and the call stack, raising a diagnostic (spec/60_exceptions.md R242), and the parts of a step around an instruction
(spec/30_encoding.md R90: fetch and tick). -/

namespace Sys2Proof.Machine

/-! ## Registers and PC -/

/-- `V[r]` (R11). -/
def State.readV (s : State) (r : Reg) : Byte := s.v[r]

/-- `V[r] <- x` (R11). -/
def State.writeV (s : State) (r : Reg) (x : Byte) : State := { s with v := s.v.set r x }

/-- `I <- x` (R11). -/
def State.writeI (s : State) (x : Word) : State := { s with i := x }

/-- `DT <- x` (R11). -/
def State.writeDT (s : State) (x : Byte) : State := { s with dt := x }

/-- `ST <- x` (R11). -/
def State.writeST (s : State) (x : Byte) : State := { s with st := x }

/-- `PC_next <- target` (R11, R24). -/
def State.jumpTo (s : State) (target : Word) : State := { s with pc := target }

/-- "Advance 2": PC_next is `trunc_16(PC + 2)` (R13, R25). -/
def State.advance2 (s : State) : State := s.jumpTo (s.pc + 2#16)

/-- "Advance 4": PC_next is `trunc_16(PC + 4)` (R133, R25). -/
def State.advance4 (s : State) : State := s.jumpTo (s.pc + 4#16)

/-- A skip: "when it holds, PC_next <- trunc_16(PC + 4), else PC_next keeps its default PC + 2" (R133). -/
def State.skipIf (s : State) (cond : Bool) : State := if cond then s.advance4 else s.advance2

/-! ## Memory -/

/-- `MemRead(a, 1)` (R62): the byte at the low 12 bits of `a`. -/
def State.memRead (s : State) (a : Nat) : Byte := s.mem.load a

/-- `MemWrite(a, 1, x)` (R63). -/
def State.memWrite (s : State) (a : Nat) (x : Byte) : State := { s with mem := s.mem.store a x }

/-- `MemWrite` of the bytes given to `a`, `a + 1`, … in ascending order (R68). -/
def State.memWriteList (s : State) (a : Nat) (l : List Byte) : State := { s with mem := s.mem.storeList a l }

/-! ## The call stack -/

/-- Push: write `stack[SP]`, then increment SP; none when the stack is full (R29, R132). -/
def State.push (s : State) (x : Word) : Option State :=
  if h : s.sp.val < 16 then
    some { s with stack := s.stack.set s.sp.val x h, sp := ⟨s.sp.val + 1, by omega⟩ }
  else none

/-- The stack without its top entry, and that entry; none when the stack is empty. "The popped entry keeps its value in
stack" (R29, R130). -/
def State.pop (s : State) : Option (Word × State) :=
  if h : 0 < s.sp.val then
    some (s.stack[s.sp.val - 1], { s with sp := ⟨s.sp.val - 1, by omega⟩ })
  else none

/-! ## The random input -/

/-- The byte on the input `rnd[7:0]` at this step (R252): the next byte the host is going to put there, or the free value
where none is written down (notes/assumptions/1.md). -/
def State.rnd (s : State) : Byte :=
  match s.rndIn with
  | b :: _ => b
  | [] => Config.rnd s.draws

/-! ## Diagnostics -/

/-- The numeric code of a diagnostic, `diag_code[1:0]` (R241, R255). -/
def DiagCode.number : DiagCode → BitVec 2
  | .unknownOpcode => 1#2
  | .stackOverflow => 2#2
  | .stackUnderflow => 3#2

/-- `raise Diag(code, (pc, word))`: no register, flag, memory byte, pixel, stack entry or redraw_pending is written, PC is
left unchanged, and the record leaves on the `diag` output (R241, R242). This is the machine's only exceptional effect;
there is no trap, no handler, and nothing to return from (R240, R249). -/
def State.raiseDiag (s : State) (code : DiagCode) (word : Word) : State :=
  { s with diag := some { code := code, pc := s.pc, word := word } }

/-- The execute phase of an unknown word (R243). -/
def execUnknown (word : Word) (s : State) : State := s.raiseDiag .unknownOpcode word

/-! ## The step around an instruction -/

/-- Fetch: the bytes at PC and PC + 1, each address reduced to 12 bits, big-endian (R67, R70, R91). -/
def State.fetch (s : State) : Word := s.memRead s.pc.toNat ++ s.memRead (s.pc.toNat + 1)

/-- The beginning of a step: the `diag` output of the last step is gone. -/
def State.beginStep (s : State) : State := { s with diag := none }

/-- A timer's tick: down by one, never below zero (R250). -/
def tickTimer (t : Byte) : Byte := if t = 0#8 then 0#8 else t - 1#8

/-- The tick: DT and ST, independently (R250). -/
def State.tick (s : State) : State := { s with dt := tickTimer s.dt, st := tickTimer s.st }

/-- This step's `rnd` byte is used up, whether the instruction consumed it or not (R252). -/
def State.nextRnd (s : State) : State := { s with rndIn := s.rndIn.tail, draws := s.draws + 1 }

/-- The end of every step, "an executed instruction, a wait-for-key retry and a diagnosed step alike" (R250). -/
def State.endStep (s : State) : State := s.tick.nextRnd

end Sys2Proof.Machine
end

