-- ==== Sys2Proof/Machine/Operands.lean ====
section
/-! DEFINITION. The operand forms: immediates (spec/30_encoding.md R94), the index address (spec/44_index_memory.md R222),
the key index (spec/43_keypad_timers.md R206), the sprite origin and rows (spec/42_display.md R183, R184), the register
ranges of FX55 and FX65, the decimal digits of FX33 (R225) and the glyph address of FX29 (R224). -/

namespace Sys2Proof.Machine

/-- NNN "is a 12-bit address zero-extended to 16 bits when written to PC or I" (R94). -/
def zext16 (nnn : Addr) : Word := nnn.setWidth 16

/-- "An access at offset k uses the exact sum I + k" (R222); memory reduces it to 12 bits (R61). -/
def State.indexAddr (s : State) (k : Nat) : Nat := s.i.toNat + k

/-- The key EX9E and EXA1 select: `V[X][3:0]` (R206). -/
def keyIndex (x : Byte) : Fin 16 := (x.extractLsb' 0 4).toFin

/-- The keypad's state of a key (R33). -/
def State.keyDown (s : State) (k : Fin 16) : Bool := s.keys[k]

/-- "The smallest such k": the keypad scanned from low to high index (R203). -/
def State.lowestKey (s : State) : Option (Fin 16) := (List.finRange 16).find? fun k => s.keyDown k

/-- A key's index as a byte (R203). -/
def keyByte (k : Fin 16) : Byte := BitVec.ofNat 8 k.val

/-- The sprite's leftmost column, `V[X] mod 64` (R183). -/
def spriteX (x : Byte) : Nat := x.toNat % Config.fbW

/-- The sprite's top row, `V[Y] mod 32` (R183). -/
def spriteY (y : Byte) : Nat := y.toNat % Config.fbH

/-- The sprite's rows: the `n` bytes at I, row 0 first (R184). -/
def State.spriteRows (s : State) (n : Nibble) : List Byte := s.mem.loadList (s.indexAddr 0) n.toNat

/-- The registers 0 to `x`, ascending: the range of FX55's and FX65's loops (R226, R227). -/
def regsUpTo (x : Reg) : List Reg := (List.finRange 16).take (x.val + 1)

/-- V[0] to V[X], in order (R226). -/
def State.regsThrough (s : State) (x : Reg) : List Byte := (regsUpTo x).map s.readV

/-- The loop of R227 over the registers listed: `V[k] <- MemRead(base + k, 1)`. -/
def loadRegs (m : Memory) (base : Nat) : List Reg → Vector Byte 16 → Vector Byte 16
  | [], v => v
  | k :: ks, v => loadRegs m base ks (v.set k (m.load (base + k.val)))

/-- V[0] to V[X] loaded from I on (R227). -/
def State.loadRegsThrough (s : State) (x : Reg) : State :=
  { s with v := loadRegs s.mem (s.indexAddr 0) (regsUpTo x) s.v }

/-- "I <- trunc_16(I + X + 1)", the post-increment of FX55 and FX65 (R226, R227, R223). -/
def State.indexPast (s : State) (x : Reg) : Word := BitVec.ofNat 16 (s.i.toNat + x.val + 1)

/-- Hundreds, tens and ones, the most significant first (R225). -/
def bcdDigits (x : Byte) : List Byte :=
  [BitVec.ofNat 8 (x.toNat / 100), BitVec.ofNat 8 (x.toNat / 10 % 10), BitVec.ofNat 8 (x.toNat % 10)]

/-- `zext_16(V[X]) * 5`, with no mask (R224). -/
def glyphAddr (x : Byte) : Word := BitVec.ofNat 16 (x.toNat * Config.glyphStride)

end Sys2Proof.Machine
end

