-- ==== Sys2Proof/Machine/Flags.lean ====
section
/-! DEFINITION. The values written to VF as a flag (spec/10_state.md R23), each 0 or 1 (spec/41_alu.md R163), computed
from exact sums and comparisons (spec/00_scope.md R10). -/

namespace Sys2Proof.Machine

/-- A flag's bit as the byte 0x00 or 0x01 (R163). -/
def flagByte (b : Bool) : Byte := if b then 1#8 else 0#8

/-- 8XY4: "1 if Vx + Vy > 0xFF", on the exact sum (R156). -/
def carryFlag (a b : Byte) : Byte := flagByte (decide (0xFF < a.toNat + b.toNat))

/-- 8XY5 with minuend Vx and 8XY7 with minuend Vy: 1 when no borrow occurs, equality included (R157, R159). -/
def noBorrowFlag (minuend subtrahend : Byte) : Byte := flagByte (decide (subtrahend.toNat ≤ minuend.toNat))

/-- 8XY6: the bit shifted out, `a[0]` (R158). -/
def shrFlag (a : Byte) : Byte := flagByte (a.getLsbD 0)

/-- 8XYE: the bit shifted out, `a[7]` (R160). -/
def shlFlag (a : Byte) : Byte := flagByte (a.getLsbD 7)

/-- FX1E: 1 if the exact sum of the old I and Vx exceeds 0xFFF (R221). -/
def indexFlag (i : Word) (x : Byte) : Byte := flagByte (decide (0xFFF < i.toNat + x.toNat))

end Sys2Proof.Machine
end

