-- ==== Sys2Proof/Machine/Alu.lean ====
section
/-! DEFINITION. Register and ALU operations (spec/41_alu.md R150-R165). Every one advances 2 and raises nothing. -/

namespace Sys2Proof.Machine

/-- Write a result to `V[x]` and advance 2; no flag (R165). -/
def State.result (s : State) (x : Reg) (value : Byte) : Host.Outcome State Fault Refusal :=
  .next (s.writeV x value).advance2

/-- Write the flag to VF, then the result to `V[x]`, and advance 2: "the flag is written first and the destination
second", so `x = 15` leaves the result in VF (R162). -/
def State.flaggedResult (s : State) (x : Reg) (flag value : Byte) : Host.Outcome State Fault Refusal :=
  .next ((s.writeV VF flag).writeV x value).advance2

/-- 6XNN LD (R150). -/
def execLdImm (x : Reg) (nn : Byte) (s : State) : Host.Outcome State Fault Refusal := s.result x nn

/-- 7XNN ADD (R151): wraps, with no flag. -/
def execAddImm (x : Reg) (nn : Byte) (s : State) : Host.Outcome State Fault Refusal := s.result x (s.readV x + nn)

/-- 8XY0 LD (R152). -/
def execLdReg (x y : Reg) (s : State) : Host.Outcome State Fault Refusal := s.result x (s.readV y)

/-- 8XY1 OR (R153). -/
def execOrReg (x y : Reg) (s : State) : Host.Outcome State Fault Refusal := s.result x (s.readV x ||| s.readV y)

/-- 8XY2 AND (R154). -/
def execAndReg (x y : Reg) (s : State) : Host.Outcome State Fault Refusal := s.result x (s.readV x &&& s.readV y)

/-- 8XY3 XOR (R155). -/
def execXorReg (x y : Reg) (s : State) : Host.Outcome State Fault Refusal := s.result x (s.readV x ^^^ s.readV y)

/-- 8XY4 ADD (R156): VF = carry. -/
def execAddReg (x y : Reg) (s : State) : Host.Outcome State Fault Refusal :=
  s.flaggedResult x (carryFlag (s.readV x) (s.readV y)) (s.readV x + s.readV y)

/-- 8XY5 SUB (R157): Vx - Vy, VF = no borrow. -/
def execSubReg (x y : Reg) (s : State) : Host.Outcome State Fault Refusal :=
  s.flaggedResult x (noBorrowFlag (s.readV x) (s.readV y)) (s.readV x - s.readV y)

/-- 8XY6 SHR (R158, R164): Vx in place, the Y field ignored. -/
def execShr (x : Reg) (s : State) : Host.Outcome State Fault Refusal :=
  s.flaggedResult x (shrFlag (s.readV x)) (s.readV x >>> 1)

/-- 8XY7 SUBN (R159): Vy - Vx, VF = no borrow. -/
def execSubn (x y : Reg) (s : State) : Host.Outcome State Fault Refusal :=
  s.flaggedResult x (noBorrowFlag (s.readV y) (s.readV x)) (s.readV y - s.readV x)

/-- 8XYE SHL (R160, R164): Vx in place, the Y field ignored. -/
def execShl (x : Reg) (s : State) : Host.Outcome State Fault Refusal :=
  s.flaggedResult x (shlFlag (s.readV x)) (s.readV x <<< 1)

/-- CXNN RND (R161): the step's random byte, masked. -/
def execRnd (x : Reg) (nn : Byte) (s : State) : Host.Outcome State Fault Refusal := s.result x (s.rnd &&& nn)

end Sys2Proof.Machine
end

