-- ==== Sys2Proof/WellFormed.lean ====
section
/-! DEFINITION. Well-formed assembler lines (spec/30_encoding.md R100, R101). A line is a row of R96's table and its
operands as plain numbers, so it can be ill-formed: no such row, a wrong number of operands, an operand that its field
cannot hold. A well-formed line stands for exactly one instruction (R101: there are no pseudo-instructions), and every
instruction is written by one; the operand types of `Instr` carry these bounds from then on. -/

namespace Sys2Proof

/-- The operand kinds of R100: `Vx`/`Vy`, `nibble`, `byte`, `addr`. -/
inductive OperandKind where
  | reg
  | nibble
  | byte
  | addr
  deriving DecidableEq, Repr

/-- The number of values an operand of the kind has: "addr is a 12-bit number; byte an 8-bit number; nibble a 4-bit
number" (R100); a register is one of 16 (R20). -/
def OperandKind.bound : OperandKind → Nat
  | .reg => 16
  | .nibble => 16
  | .byte => 256
  | .addr => 4096

/-- The operands of the row numbered `k` in R96's table (R93's layouts, R100's syntax). SHR and SHL have their Y field
here; a line that omits it is filled in first (`AsmLine.filled`). -/
def operandKinds : Nat → Option (List OperandKind)
  | 1 | 2 => some []
  | 3 | 4 | 20 | 21 => some [.addr]
  | 5 | 6 | 8 | 9 | 22 => some [.reg, .byte]
  | 7 | 10 | 11 | 12 | 13 | 14 | 15 | 16 | 17 | 18 | 19 => some [.reg, .reg]
  | 23 => some [.reg, .reg, .nibble]
  | 24 | 25 | 26 | 27 | 28 | 29 | 30 | 31 | 32 | 33 | 34 => some [.reg]
  | _ => none

/-- An assembler line: a row number of R96's table and the operands in R100's order. -/
structure AsmLine where
  row : Nat
  operands : List Nat
  deriving DecidableEq, Repr

/-- Each operand lies within its kind's range, and there are as many as there are kinds. -/
def operandsFit : List OperandKind → List Nat → Bool
  | [], [] => true
  | k :: ks, n :: ns => decide (n < k.bound) && operandsFit ks ns
  | _, _ => false

/-- The row exists, and the operands are those of the row, each in its range. -/
def AsmLine.wellFormed (a : AsmLine) : Bool :=
  match operandKinds a.row with
  | none => false
  | some ks => operandsFit ks a.operands

/-- A register operand given as a number. -/
def regOfNat (n : Nat) : Reg := Fin.ofNat 16 n

/-- An instruction with no operand. -/
def withNone (i : Instr) : List Nat → Option Instr
  | [] => some i
  | _ => none

/-- An instruction with the operand `addr`. -/
def withAddr (f : Addr → Instr) : List Nat → Option Instr
  | [a] => some (f (BitVec.ofNat 12 a))
  | _ => none

/-- An instruction with the operands `Vx, byte`. -/
def withRegByte (f : Reg → Byte → Instr) : List Nat → Option Instr
  | [x, b] => some (f (regOfNat x) (BitVec.ofNat 8 b))
  | _ => none

/-- An instruction with the operands `Vx, Vy`. -/
def withRegs (f : Reg → Reg → Instr) : List Nat → Option Instr
  | [x, y] => some (f (regOfNat x) (regOfNat y))
  | _ => none

/-- An instruction with the operands `Vx, Vy, nibble`. -/
def withRegsNibble (f : Reg → Reg → Nibble → Instr) : List Nat → Option Instr
  | [x, y, n] => some (f (regOfNat x) (regOfNat y) (BitVec.ofNat 4 n))
  | _ => none

/-- An instruction with the operand `Vx`. -/
def withReg (f : Reg → Instr) : List Nat → Option Instr
  | [x] => some (f (regOfNat x))
  | _ => none

/-- The instruction of a row, given its operands; none where their number is wrong. -/
def instrOfRow : Nat → List Nat → Option Instr
  | 1 => withNone .cls
  | 2 => withNone .ret
  | 3 => withAddr .jp
  | 4 => withAddr .call
  | 5 => withRegByte .seImm
  | 6 => withRegByte .sneImm
  | 7 => withRegs .seReg
  | 8 => withRegByte .ldImm
  | 9 => withRegByte .addImm
  | 10 => withRegs .ldReg
  | 11 => withRegs .orReg
  | 12 => withRegs .andReg
  | 13 => withRegs .xorReg
  | 14 => withRegs .addReg
  | 15 => withRegs .subReg
  | 16 => withRegs .shr
  | 17 => withRegs .subn
  | 18 => withRegs .shl
  | 19 => withRegs .sneReg
  | 20 => withAddr .ldI
  | 21 => withAddr .jpV0
  | 22 => withRegByte .rnd
  | 23 => withRegsNibble .drw
  | 24 => withReg .skp
  | 25 => withReg .sknp
  | 26 => withReg .ldVxDt
  | 27 => withReg .ldVxK
  | 28 => withReg .ldDtVx
  | 29 => withReg .ldStVx
  | 30 => withReg .addI
  | 31 => withReg .ldF
  | 32 => withReg .ldB
  | 33 => withReg .ldMemVx
  | 34 => withReg .ldVxMem
  | _ => fun _ => none

/-- The instruction a line stands for; an ill-formed line stands for none. -/
def AsmLine.instr (a : AsmLine) : Option Instr :=
  if a.wellFormed then instrOfRow a.row a.operands else none

/-- A line as written, with the operand that R100 lets SHR and SHL omit filled in: "when omitted, Y = 0". -/
def AsmLine.filled (a : AsmLine) : AsmLine :=
  match a.row, a.operands with
  | 16, [x] => ⟨16, [x, 0]⟩
  | 18, [x] => ⟨18, [x, 0]⟩
  | _, _ => a

/-- The line that writes an instruction, no operand omitted. -/
def Instr.asmLine : Instr → AsmLine
  | .cls => ⟨1, []⟩
  | .ret => ⟨2, []⟩
  | .jp a => ⟨3, [a.toNat]⟩
  | .call a => ⟨4, [a.toNat]⟩
  | .seImm x b => ⟨5, [x.val, b.toNat]⟩
  | .sneImm x b => ⟨6, [x.val, b.toNat]⟩
  | .seReg x y => ⟨7, [x.val, y.val]⟩
  | .ldImm x b => ⟨8, [x.val, b.toNat]⟩
  | .addImm x b => ⟨9, [x.val, b.toNat]⟩
  | .ldReg x y => ⟨10, [x.val, y.val]⟩
  | .orReg x y => ⟨11, [x.val, y.val]⟩
  | .andReg x y => ⟨12, [x.val, y.val]⟩
  | .xorReg x y => ⟨13, [x.val, y.val]⟩
  | .addReg x y => ⟨14, [x.val, y.val]⟩
  | .subReg x y => ⟨15, [x.val, y.val]⟩
  | .shr x y => ⟨16, [x.val, y.val]⟩
  | .subn x y => ⟨17, [x.val, y.val]⟩
  | .shl x y => ⟨18, [x.val, y.val]⟩
  | .sneReg x y => ⟨19, [x.val, y.val]⟩
  | .ldI a => ⟨20, [a.toNat]⟩
  | .jpV0 a => ⟨21, [a.toNat]⟩
  | .rnd x b => ⟨22, [x.val, b.toNat]⟩
  | .drw x y n => ⟨23, [x.val, y.val, n.toNat]⟩
  | .skp x => ⟨24, [x.val]⟩
  | .sknp x => ⟨25, [x.val]⟩
  | .ldVxDt x => ⟨26, [x.val]⟩
  | .ldVxK x => ⟨27, [x.val]⟩
  | .ldDtVx x => ⟨28, [x.val]⟩
  | .ldStVx x => ⟨29, [x.val]⟩
  | .addI x => ⟨30, [x.val]⟩
  | .ldF x => ⟨31, [x.val]⟩
  | .ldB x => ⟨32, [x.val]⟩
  | .ldMemVx x => ⟨33, [x.val]⟩
  | .ldVxMem x => ⟨34, [x.val]⟩

/-- An instruction is well-formed when the line that writes it is. The operand types make every `Instr` so
(`Instr.wellFormed_all` in Laws/WellFormed.lean); the check bites on lines. -/
def Instr.wellFormed (i : Instr) : Bool := i.asmLine.wellFormed

end Sys2Proof
end

