-- ==== Sys2Proof/Decode.lean ====
section
/-! DEFINITION. Decoding an instruction word (spec/30_encoding.md R91-R99), total on any word and any bytes, rejecting
by name; then the encoder, written from R93's layouts and R96's patterns; then R96's table of match and mask. -/

namespace Sys2Proof

/-! ## The fields of a word (R92) -/

/-- F, the family: `w[15:12]`. -/
def fieldF (w : Word) : Nibble := w.extractLsb' 12 4

/-- X: `w[11:8]`, a register selector. -/
def fieldX (w : Word) : Reg := (w.extractLsb' 8 4).toFin

/-- Y: `w[7:4]`, a register selector. -/
def fieldY (w : Word) : Reg := (w.extractLsb' 4 4).toFin

/-- N: `w[3:0]`. -/
def fieldN (w : Word) : Nibble := w.extractLsb' 0 4

/-- NN: `w[7:0]`. -/
def fieldNN (w : Word) : Byte := w.extractLsb' 0 8

/-- NNN: `w[11:0]`. -/
def fieldNNN (w : Word) : Addr := w.extractLsb' 0 12

/-! ## Decoding -/

/-- Why a word is unknown: R98's six groups. -/
inductive UnknownWord where
  /-- 0x0000-0x0FFF other than 00E0 and 00EE (4094 words). -/
  | family0
  /-- 5XYN with N not 0 (3840 words). -/
  | family5
  /-- 8XYN with N in 8, 9, A, B, C, D, F (1792 words). -/
  | family8
  /-- 9XYN with N not 0 (3840 words). -/
  | family9
  /-- EXNN with NN neither 9E nor A1 (4064 words). -/
  | familyE
  /-- FXNN with NN not one of the nine sub-codes (3952 words). -/
  | familyF
  deriving DecidableEq, Repr

/-- Family 0: the whole word is the pattern (R97). -/
def decode0 (w : Word) : Except UnknownWord Instr :=
  if w = 0x00E0#16 then .ok .cls else if w = 0x00EE#16 then .ok .ret else .error .family0

/-- Family 8: the sub-code is N (R97). -/
def decode8 (w : Word) : Except UnknownWord Instr :=
  match (fieldN w).toNat with
  | 0x0 => .ok (.ldReg (fieldX w) (fieldY w))
  | 0x1 => .ok (.orReg (fieldX w) (fieldY w))
  | 0x2 => .ok (.andReg (fieldX w) (fieldY w))
  | 0x3 => .ok (.xorReg (fieldX w) (fieldY w))
  | 0x4 => .ok (.addReg (fieldX w) (fieldY w))
  | 0x5 => .ok (.subReg (fieldX w) (fieldY w))
  | 0x6 => .ok (.shr (fieldX w) (fieldY w))
  | 0x7 => .ok (.subn (fieldX w) (fieldY w))
  | 0xE => .ok (.shl (fieldX w) (fieldY w))
  | _ => .error .family8

/-- Family E: the sub-code is NN (R97). -/
def decodeE (w : Word) : Except UnknownWord Instr :=
  match (fieldNN w).toNat with
  | 0x9E => .ok (.skp (fieldX w))
  | 0xA1 => .ok (.sknp (fieldX w))
  | _ => .error .familyE

/-- Family F: the sub-code is NN (R97). -/
def decodeF (w : Word) : Except UnknownWord Instr :=
  match (fieldNN w).toNat with
  | 0x07 => .ok (.ldVxDt (fieldX w))
  | 0x0A => .ok (.ldVxK (fieldX w))
  | 0x15 => .ok (.ldDtVx (fieldX w))
  | 0x18 => .ok (.ldStVx (fieldX w))
  | 0x1E => .ok (.addI (fieldX w))
  | 0x29 => .ok (.ldF (fieldX w))
  | 0x33 => .ok (.ldB (fieldX w))
  | 0x55 => .ok (.ldMemVx (fieldX w))
  | 0x65 => .ok (.ldVxMem (fieldX w))
  | _ => .error .familyF

/-- Decode a word: a dispatch on the family, then on the sub-code (R97). The last arm is family F, the only value left. -/
def decodeWord (w : Word) : Except UnknownWord Instr :=
  match (fieldF w).toNat with
  | 0x0 => decode0 w
  | 0x1 => .ok (.jp (fieldNNN w))
  | 0x2 => .ok (.call (fieldNNN w))
  | 0x3 => .ok (.seImm (fieldX w) (fieldNN w))
  | 0x4 => .ok (.sneImm (fieldX w) (fieldNN w))
  | 0x5 => if fieldN w = 0#4 then .ok (.seReg (fieldX w) (fieldY w)) else .error .family5
  | 0x6 => .ok (.ldImm (fieldX w) (fieldNN w))
  | 0x7 => .ok (.addImm (fieldX w) (fieldNN w))
  | 0x8 => decode8 w
  | 0x9 => if fieldN w = 0#4 then .ok (.sneReg (fieldX w) (fieldY w)) else .error .family9
  | 0xA => .ok (.ldI (fieldNNN w))
  | 0xB => .ok (.jpV0 (fieldNNN w))
  | 0xC => .ok (.rnd (fieldX w) (fieldNN w))
  | 0xD => .ok (.drw (fieldX w) (fieldY w) (fieldN w))
  | 0xE => decodeE w
  | _ => decodeF w

/-- Two bytes as a word, big-endian: "the byte at the lower address being bits 15:8" (spec/20_memory.md R67). -/
def wordOfBytes (hi lo : Byte) : Word := hi ++ lo

/-- Why a byte list does not begin with an instruction. -/
inductive DecodeError where
  /-- Fewer than the two bytes every instruction has (R93). -/
  | short
  /-- An unknown word (R98). -/
  | unknown (u : UnknownWord)
  deriving DecidableEq, Repr

/-- Decode the instruction a byte list begins with, and the bytes after it. -/
def decodeBytes : List Byte → Except DecodeError (Instr × List Byte)
  | hi :: lo :: rest =>
    match decodeWord (wordOfBytes hi lo) with
    | .ok i => .ok (i, rest)
    | .error u => .error (.unknown u)
  | _ => .error .short

/-! ## Encoding -/

/-- A register number as its 4-bit field. -/
def regBits (r : Reg) : Nibble := BitVec.ofFin r

/-- Layout NNN (R93). -/
def wordNNN (f : Nibble) (nnn : Addr) : Word := f ++ nnn

/-- Layout XNN (R93). -/
def wordXNN (f : Nibble) (x : Reg) (nn : Byte) : Word := f ++ regBits x ++ nn

/-- Layout XYN (R93). -/
def wordXYN (f : Nibble) (x y : Reg) (n : Nibble) : Word := f ++ regBits x ++ regBits y ++ n

/-- The word of an instruction (R96's patterns in R93's layouts). -/
def encode : Instr → Word
  | .cls => 0x00E0#16
  | .ret => 0x00EE#16
  | .jp nnn => wordNNN 0x1#4 nnn
  | .call nnn => wordNNN 0x2#4 nnn
  | .seImm x nn => wordXNN 0x3#4 x nn
  | .sneImm x nn => wordXNN 0x4#4 x nn
  | .seReg x y => wordXYN 0x5#4 x y 0x0#4
  | .ldImm x nn => wordXNN 0x6#4 x nn
  | .addImm x nn => wordXNN 0x7#4 x nn
  | .ldReg x y => wordXYN 0x8#4 x y 0x0#4
  | .orReg x y => wordXYN 0x8#4 x y 0x1#4
  | .andReg x y => wordXYN 0x8#4 x y 0x2#4
  | .xorReg x y => wordXYN 0x8#4 x y 0x3#4
  | .addReg x y => wordXYN 0x8#4 x y 0x4#4
  | .subReg x y => wordXYN 0x8#4 x y 0x5#4
  | .shr x y => wordXYN 0x8#4 x y 0x6#4
  | .subn x y => wordXYN 0x8#4 x y 0x7#4
  | .shl x y => wordXYN 0x8#4 x y 0xE#4
  | .sneReg x y => wordXYN 0x9#4 x y 0x0#4
  | .ldI nnn => wordNNN 0xA#4 nnn
  | .jpV0 nnn => wordNNN 0xB#4 nnn
  | .rnd x nn => wordXNN 0xC#4 x nn
  | .drw x y n => wordXYN 0xD#4 x y n
  | .skp x => wordXNN 0xE#4 x 0x9E#8
  | .sknp x => wordXNN 0xE#4 x 0xA1#8
  | .ldVxDt x => wordXNN 0xF#4 x 0x07#8
  | .ldVxK x => wordXNN 0xF#4 x 0x0A#8
  | .ldDtVx x => wordXNN 0xF#4 x 0x15#8
  | .ldStVx x => wordXNN 0xF#4 x 0x18#8
  | .addI x => wordXNN 0xF#4 x 0x1E#8
  | .ldF x => wordXNN 0xF#4 x 0x29#8
  | .ldB x => wordXNN 0xF#4 x 0x33#8
  | .ldMemVx x => wordXNN 0xF#4 x 0x55#8
  | .ldVxMem x => wordXNN 0xF#4 x 0x65#8

/-- The high byte of a word, stored at the lower address (R67). -/
def hiByte (w : Word) : Byte := w.extractLsb' 8 8

/-- The low byte of a word. -/
def loByte (w : Word) : Byte := w.extractLsb' 0 8

/-- The two bytes of an instruction, in address order (R67, R93). -/
def encodeBytes (i : Instr) : List Byte := [hiByte (encode i), loByte (encode i)]

/-! ## The opcode table (R96) -/

/-- A row of R96's table: it selects the words `w` with `w AND mask = pattern`. -/
structure OpRow where
  pattern : Word
  mask : Word
  deriving DecidableEq, Repr

/-- The row selects the word (R96). -/
def OpRow.selects (r : OpRow) (w : Word) : Bool := decide (w &&& r.mask = r.pattern)

/-- R96's table, rows 1 to 34 in order, its match and mask columns. -/
def opTable : List OpRow :=
  [⟨0x00E0, 0xFFFF⟩, ⟨0x00EE, 0xFFFF⟩, ⟨0x1000, 0xF000⟩, ⟨0x2000, 0xF000⟩, ⟨0x3000, 0xF000⟩, ⟨0x4000, 0xF000⟩] ++
  [⟨0x5000, 0xF00F⟩, ⟨0x6000, 0xF000⟩, ⟨0x7000, 0xF000⟩, ⟨0x8000, 0xF00F⟩, ⟨0x8001, 0xF00F⟩, ⟨0x8002, 0xF00F⟩] ++
  [⟨0x8003, 0xF00F⟩, ⟨0x8004, 0xF00F⟩, ⟨0x8005, 0xF00F⟩, ⟨0x8006, 0xF00F⟩, ⟨0x8007, 0xF00F⟩, ⟨0x800E, 0xF00F⟩] ++
  [⟨0x9000, 0xF00F⟩, ⟨0xA000, 0xF000⟩, ⟨0xB000, 0xF000⟩, ⟨0xC000, 0xF000⟩, ⟨0xD000, 0xF000⟩] ++
  [⟨0xE09E, 0xF0FF⟩, ⟨0xE0A1, 0xF0FF⟩, ⟨0xF007, 0xF0FF⟩, ⟨0xF00A, 0xF0FF⟩, ⟨0xF015, 0xF0FF⟩, ⟨0xF018, 0xF0FF⟩] ++
  [⟨0xF01E, 0xF0FF⟩, ⟨0xF029, 0xF0FF⟩, ⟨0xF033, 0xF0FF⟩, ⟨0xF055, 0xF0FF⟩, ⟨0xF065, 0xF0FF⟩]

/-! ## The host's reading of the table -/

/-- The instruction the decoder reads from an instruction whose bits are `w`, bit 0 the least significant bit of the
word: the word's two bytes in memory order (R67), given to `decodeBytes`. Bits at `nbits` and above are 0. -/
def decodeTableWord (nbits w : Nat) : Option Instr :=
  let word : Word := BitVec.ofNat 16 (w % 2 ^ nbits)
  match decodeBytes [hiByte word, loByte word] with
  | .ok (i, _) => some i
  | .error _ => none

end Sys2Proof
end

