-- ==== Sys2Proof/Machine/Control.lean ====
section
/-! DEFINITION. Control transfer (spec/40_control_flow.md R130-R138). -/

namespace Sys2Proof.Machine

/-- 00EE RET (R130): pop, and continue after the CALL that pushed; on an empty stack, a diagnostic (R245). -/
def execRet (s : State) : Host.Outcome State Fault Refusal :=
  match s.pop with
  | some (ret, s') => .next (s'.jumpTo (ret + 2#16))
  | none => .next (s.raiseDiag .stackUnderflow (encode .ret))

/-- 1NNN JP (R131). -/
def execJp (nnn : Addr) (s : State) : Host.Outcome State Fault Refusal := .next (s.jumpTo (zext16 nnn))

/-- 2NNN CALL (R132): push "the address of this CALL, not PC + 2"; on a full stack, a diagnostic (R244). -/
def execCall (nnn : Addr) (s : State) : Host.Outcome State Fault Refusal :=
  match s.push s.pc with
  | some s' => .next (s'.jumpTo (zext16 nnn))
  | none => .next (s.raiseDiag .stackOverflow (encode (.call nnn)))

/-- 3XNN SE (R134). -/
def execSeImm (x : Reg) (nn : Byte) (s : State) : Host.Outcome State Fault Refusal :=
  .next (s.skipIf (decide (s.readV x = nn)))

/-- 4XNN SNE (R135). -/
def execSneImm (x : Reg) (nn : Byte) (s : State) : Host.Outcome State Fault Refusal :=
  .next (s.skipIf (decide (s.readV x ≠ nn)))

/-- 5XY0 SE (R136). -/
def execSeReg (x y : Reg) (s : State) : Host.Outcome State Fault Refusal :=
  .next (s.skipIf (decide (s.readV x = s.readV y)))

/-- 9XY0 SNE (R137). -/
def execSneReg (x y : Reg) (s : State) : Host.Outcome State Fault Refusal :=
  .next (s.skipIf (decide (s.readV x ≠ s.readV y)))

/-- BNNN JP V0 (R138): `trunc_16(zext_16(NNN) + zext_16(V[0]))`. -/
def execJpV0 (nnn : Addr) (s : State) : Host.Outcome State Fault Refusal :=
  .next (s.jumpTo (zext16 nnn + (s.readV V0).setWidth 16))

end Sys2Proof.Machine
end

