-- ==== Sys2Proof/Machine/Display.lean ====
section
/-! DEFINITION. The framebuffer and its two instructions (spec/10_state.md R31, R32; spec/42_display.md R180-R185). -/

namespace Sys2Proof.Machine

/-- Row `y` of the framebuffer; a row off the grid has no pixel lit. -/
def Framebuffer.row (fb : Framebuffer) (y : Nat) : BitVec 64 := if h : y < 32 then fb[y] else 0#64

/-- `FB[y][x]`, the pixel at column `x` of row `y` (R31); off the grid, false. -/
def Framebuffer.pixel (fb : Framebuffer) (x y : Nat) : Bool := (fb.row y).getLsbD x

/-- `FB[y][x] <- FB[y][x] XOR 1` (R182); off the grid, nothing. -/
def Framebuffer.toggle (fb : Framebuffer) (x y : Nat) : Framebuffer :=
  if h : y < 32 then fb.set y (fb[y] ^^^ BitVec.twoPow 64 x) h else fb

/-- Every pixel 0 (R180). -/
def Framebuffer.clear : Framebuffer := Vector.replicate 32 0#64

/-- A pixel of the 64 x 32 grid (R183). -/
def onGrid (x y : Nat) : Bool := decide (x < Config.fbW) && decide (y < Config.fbH)

/-- Plot one sprite bit at (x, y): a 1 on the grid toggles the pixel and collides if it was set; a 0, or a position off
the grid, does nothing (R182, R183). The pair is the framebuffer and the collision so far. -/
def plotBit (x y : Nat) (bit : Bool) (d : Framebuffer × Bool) : Framebuffer × Bool :=
  if bit && onGrid x y then (d.1.toggle x y, d.2 || d.1.pixel x y) else d

/-- Plot one sprite row: bit 7 at column `x`, bit 0 at column `x + 7` (R184). -/
def plotRow (x y : Nat) (row : Byte) (d : Framebuffer × Bool) : Framebuffer × Bool :=
  (List.range 8).foldl (fun d c => plotBit (x + c) y (row.getLsbD (7 - c)) d) d

/-- Plot a sprite's rows from row `y` down (R181, R184). -/
def plotSprite (x : Nat) : Nat → List Byte → Framebuffer × Bool → Framebuffer × Bool
  | _, [], d => d
  | y, row :: rows, d => plotSprite x (y + 1) rows (plotRow x y row d)

/-- The framebuffer after the sprite of `DXYN`, and whether a plotted pixel went from 1 to 0 (R181); the coordinates are
those before VF is written (R285). -/
def State.drawn (s : State) (x y : Reg) (n : Nibble) : Framebuffer × Bool :=
  plotSprite (spriteX (s.readV x)) (spriteY (s.readV y)) (s.spriteRows n) (s.fb, false)

/-- The framebuffer replaced and redraw_pending set (R180, R181, R185). -/
def State.showScreen (s : State) (fb : Framebuffer) : State := { s with fb := fb, redraw := true }

/-- 00E0 CLS (R180). -/
def execCls (s : State) : Host.Outcome State Fault Refusal := .next (s.showScreen Framebuffer.clear).advance2

/-- DXYN DRW (R181): VF = collision, always written. -/
def execDrw (x y : Reg) (n : Nibble) (s : State) : Host.Outcome State Fault Refusal :=
  .next ((s.showScreen (s.drawn x y n).1).writeV VF (flagByte (s.drawn x y n).2)).advance2

end Sys2Proof.Machine
end

