-- ==== Sys2Proof/Machine/IndexMemory.lean ====
section
/-! DEFINITION. Index register, BCD and memory transfers (spec/44_index_memory.md R220-R227). Every one advances 2. -/

namespace Sys2Proof.Machine

/-- ANNN LD I (R220). -/
def execLdI (nnn : Addr) (s : State) : Host.Outcome State Fault Refusal := .next (s.writeI (zext16 nnn)).advance2

/-- FX1E ADD I (R221): I wraps at 16 bits; VF is the exact sum's overflow past 0xFFF, and is always written. -/
def execAddI (x : Reg) (s : State) : Host.Outcome State Fault Refusal :=
  .next ((s.writeI (s.i + (s.readV x).setWidth 16)).writeV VF (indexFlag s.i (s.readV x))).advance2

/-- FX29 LD F (R224). -/
def execLdF (x : Reg) (s : State) : Host.Outcome State Fault Refusal := .next (s.writeI (glyphAddr (s.readV x))).advance2

/-- FX33 LD B (R225): the three digits at I, I + 1, I + 2; I is unchanged. -/
def execLdB (x : Reg) (s : State) : Host.Outcome State Fault Refusal :=
  .next (s.memWriteList (s.indexAddr 0) (bcdDigits (s.readV x))).advance2

/-- FX55 LD [I], Vx (R226). -/
def execLdMemVx (x : Reg) (s : State) : Host.Outcome State Fault Refusal :=
  .next ((s.memWriteList (s.indexAddr 0) (s.regsThrough x)).writeI (s.indexPast x)).advance2

/-- FX65 LD Vx, [I] (R227). -/
def execLdVxMem (x : Reg) (s : State) : Host.Outcome State Fault Refusal :=
  .next ((s.loadRegsThrough x).writeI (s.indexPast x)).advance2

end Sys2Proof.Machine
end

