-- ==== Sys2Proof/Machine/KeypadTimers.lean ====
section
/-! DEFINITION. Keypad and timer instructions (spec/43_keypad_timers.md R200-R206). The tick that ends the step is not
theirs (`State.tick`, R250). -/

namespace Sys2Proof.Machine

/-- EX9E SKP (R200). -/
def execSkp (x : Reg) (s : State) : Host.Outcome State Fault Refusal :=
  .next (s.skipIf (s.keyDown (keyIndex (s.readV x))))

/-- EXA1 SKNP (R201). -/
def execSknp (x : Reg) (s : State) : Host.Outcome State Fault Refusal :=
  .next (s.skipIf (!s.keyDown (keyIndex (s.readV x))))

/-- FX07 LD Vx, DT (R202): "DT as it stands before this step's tick". -/
def execLdVxDt (x : Reg) (s : State) : Host.Outcome State Fault Refusal := .next (s.writeV x s.dt).advance2

/-- FX0A LD Vx, K (R203): the lowest pressed key; with none pressed, PC stays and the step is a retry. -/
def execLdVxK (x : Reg) (s : State) : Host.Outcome State Fault Refusal :=
  match s.lowestKey with
  | some k => .next (s.writeV x (keyByte k)).advance2
  | none => .next (s.jumpTo s.pc)

/-- FX15 LD DT, Vx (R204). -/
def execLdDtVx (x : Reg) (s : State) : Host.Outcome State Fault Refusal :=
  .next (s.writeDT (s.readV x)).advance2

/-- FX18 LD ST, Vx (R205). -/
def execLdStVx (x : Reg) (s : State) : Host.Outcome State Fault Refusal :=
  .next (s.writeST (s.readV x)).advance2

end Sys2Proof.Machine
end

