-- ==== Sys2Proof/Machine/Step.lean ====
section
/-! DEFINITION. One step (spec/30_encoding.md R90): fetch, decode, execute or diagnose, tick. -/

namespace Sys2Proof.Machine

/-- One `step()` of the block. The word is fetched before the instruction executes (R75); an unknown word is diagnosed
and inert (R98, R243); the tick ends every step (R250). -/
def step (s : State) : Host.Outcome State Fault Refusal :=
  match decodeWord s.fetch with
  | .ok i =>
    match exec i s.beginStep with
    | .next t => .next t.endStep
    | .fault r => .fault r
    | .refused r => .refused r
  | .error _ => .next (execUnknown s.fetch s.beginStep).endStep

/-- The state with an instruction's word (bit 0 its least significant bit, bits at `nbits` and above 0) in the two cells
the next step fetches from, high byte first (R67). The cells are set directly, as the loader does (R260), so this works
wherever PC stands. -/
def State.withFetchWord (s : State) (nbits w : Nat) : State :=
  let word : Word := BitVec.ofNat 16 (w % 2 ^ nbits)
  { s with
    mem := (s.mem.write (addr12 s.pc.toNat) (hiByte word)).write (addr12 (s.pc.toNat + 1)) (loByte word) }

end Sys2Proof.Machine
end

