-- ==== Sys2Proof/Machine/HostOps.lean ====
section
/-! DEFINITION. The host interface (spec/60_exceptions.md R255-R261): the operations the host performs between steps, and
the outputs it reads. None of them is a step, and none ticks a timer (R250). -/

namespace Sys2Proof.Machine

/-- Why a cartridge is not loaded: `CapacityError`, more than 3584 bytes (R260). -/
inductive LoadError where
  | capacity
  deriving DecidableEq, Repr

/-- `load(bytes)` (R260): the bytes at 0x200 and on, a direct write; or nothing at all. -/
def State.load (s : State) (bytes : List Byte) : Except LoadError State :=
  if Config.maxCart < bytes.length then .error .capacity
  else .ok { s with mem := s.mem.writeList Config.loadOrigin bytes }

/-- `set_key_state(k, p)` (R257). -/
def State.setKey (s : State) (k : Fin 16) (pressed : Bool) : State := { s with keys := s.keys.set k pressed }

/-- `acknowledge_redraw()` (R258). -/
def State.acknowledgeRedraw (s : State) : State := { s with redraw := false }

/-- The host settles the byte it will put on `rnd` at the first coming step that has none yet (R252, R261). -/
def State.supplyRnd (s : State) (b : Byte) : State := { s with rndIn := s.rndIn ++ [b] }

/-- `should_redraw()` (R258). -/
def State.shouldRedraw (s : State) : Bool := s.redraw

/-- `should_play_sound()`: `sound_on` is ST not 0 (R256). -/
def State.soundOn (s : State) : Bool := decide (s.st ≠ 0#8)

/-- `read_framebuffer()`: the 2048 pixels, element `y * 64 + x` being `FB[y][x]` (R259). -/
def State.readFramebuffer (s : State) : List Bool :=
  (List.range (Config.fbW * Config.fbH)).map fun e => s.fb.pixel (e % Config.fbW) (e / Config.fbW)

/-- The output `diag_valid` (R255): the last step raised a diagnostic. -/
def State.diagValid (s : State) : Bool := s.diag.isSome

/-- The host's operations that change the block (R255, R261). -/
inductive HostOp where
  | load (bytes : List Byte)
  | setKey (k : Fin 16) (pressed : Bool)
  | acknowledgeRedraw
  | supplyRnd (b : Byte)
  deriving DecidableEq, Repr

/-- The block after a host operation; a load that fails leaves it as it was (R260: "no partial load"). -/
def State.afterHost (s : State) : HostOp → State
  | .load bytes =>
    match s.load bytes with
    | .ok s' => s'
    | .error _ => s
  | .setKey k pressed => s.setKey k pressed
  | .acknowledgeRedraw => s.acknowledgeRedraw
  | .supplyRnd b => s.supplyRnd b

end Sys2Proof.Machine
end

