-- ==== Sys2Proof/Safety.lean ====
section
/-! DEFINITION. What holds of every state a run reaches (spec/10_state.md R38), when a run has ended (spec/60_exceptions.md
R266), what each instruction may touch (R22), and the frames the claims are stated in. -/

namespace Sys2Proof.Machine

/-! ## The invariant -/

/-- "mem[0x000..0x04F] equal the font bytes" (R38, R64). -/
abbrev Memory.romIntact (m : Memory) : Prop := ∀ a < Config.fontSize, m.read a = fontByte a

/-- What reset establishes and every step and host operation keeps: memory in its canonical form, and the glyph ROM
unchanged (R38, R64). R38's bounds on SP and on pixels are carried by the types of `sp` and `fb`. -/
abbrev State.Inv (s : State) : Prop := s.mem.wf ∧ s.mem.romIntact

/-! ## Parked states -/

/-- The state is parked (R266): the word at PC is a self-jump, an unknown word, FX0A with no key pressed, RET with an
empty stack, or CALL with a full one. DESIGN CHOICE (safe): this is R266's list, which names 1NNN as the self-jump; BNNN
with NNN + V0 = PC changes nothing but DT and ST too, as R266's defining clause says, but is not on the list and does
not count as parked here (notes/assumptions/14.md). -/
def State.parked (s : State) : Bool :=
  match decodeWord s.fetch with
  | .error _ => true
  | .ok (.jp nnn) => decide (zext16 nnn = s.pc)
  | .ok (.ldVxK _) => s.lowestKey.isNone
  | .ok .ret => decide (s.sp.val = 0)
  | .ok (.call _) => decide (s.sp.val = 16)
  | .ok _ => false

/-! ## Which general registers an instruction reads and writes (R22) -/

/-- R22's "reads" column. -/
def regReads : Instr → List Reg
  | .seImm x _ | .sneImm x _ | .addImm x _ | .shr x _ | .shl x _ => [x]
  | .seReg x y | .sneReg x y | .orReg x y | .andReg x y | .xorReg x y => [x, y]
  | .addReg x y | .subReg x y | .subn x y | .drw x y _ => [x, y]
  | .ldReg _ y => [y]
  | .jpV0 _ => [V0]
  | .skp x | .sknp x | .ldDtVx x | .ldStVx x | .addI x | .ldF x | .ldB x => [x]
  | .ldMemVx x => regsUpTo x
  | .cls | .ret | .jp _ | .call _ | .ldImm _ _ | .ldI _ | .rnd _ _ | .ldVxDt _ | .ldVxK _ | .ldVxMem _ => []

/-- R22's "writes" column; FX0A writes Vx "only when a key is pressed". -/
def regWrites (s : State) : Instr → List Reg
  | .ldImm x _ | .addImm x _ | .ldReg x _ | .orReg x _ | .andReg x _ | .xorReg x _ | .rnd x _ | .ldVxDt x => [x]
  | .addReg x _ | .subReg x _ | .shr x _ | .subn x _ | .shl x _ => [VF, x]
  | .drw _ _ _ | .addI _ => [VF]
  | .ldVxK x => if s.lowestKey.isSome then [x] else []
  | .ldVxMem x => regsUpTo x
  | .cls | .ret | .jp _ | .call _ | .seImm _ _ | .sneImm _ _ | .seReg _ _ | .sneReg _ _ | .ldI _ | .jpV0 _ => []
  | .skp _ | .sknp _ | .ldDtVx _ | .ldStVx _ | .ldF _ | .ldB _ | .ldMemVx _ => []

/-! ## Where a sprite lands -/

/-- A 1 bit of the sprite of `DXYN` lands on the pixel at column `cx` of row `cy`: some row `r` below N and column `c`
below 8 of the sprite is there, on the grid, and bit `7 - c` of the byte at I + `r` is 1 (R181, R183, R184). -/
def State.plots (s : State) (x y : Reg) (n : Nibble) (cx cy : Nat) : Prop :=
  ∃ r < n.toNat, ∃ c < 8, cx = (s.readV x).toNat % 64 + c ∧ cy = (s.readV y).toNat % 32 + r ∧ cx ≤ 63 ∧ cy ≤ 31 ∧
    (s.memRead (s.indexAddr r)).getLsbD (7 - c) = true

/-! ## Frames -/

/-- Every general register but those listed is as before. -/
def SameRegsBut (rs : List Reg) (s t : State) : Prop := ∀ r, r ∉ rs → t.readV r = s.readV r

/-- SP and every stack entry are as before. -/
def SameStack (s t : State) : Prop := t.sp = s.sp ∧ ∀ k : Fin 16, t.stack[k] = s.stack[k]

/-- DT and ST are as before. -/
def SameTimers (s t : State) : Prop := t.dt = s.dt ∧ t.st = s.st

/-- Every pixel and redraw_pending are as before. -/
def SameScreen (s t : State) : Prop := (∀ x y, t.fb.pixel x y = s.fb.pixel x y) ∧ t.redraw = s.redraw

/-- Every byte of memory reads as before. -/
def SameMem (s t : State) : Prop := ∀ a, t.memRead a = s.memRead a

/-- The keys and the `rnd` input are as before. -/
def SameInputs (s t : State) : Prop := t.keys = s.keys ∧ t.rndIn = s.rndIn ∧ t.draws = s.draws

/-- All but PC, the registers listed and I is as before, and nothing is diagnosed. -/
def SameButRegsI (rs : List Reg) (s t : State) : Prop :=
  SameRegsBut rs s t ∧ SameStack s t ∧ SameTimers s t ∧ SameScreen s t ∧ SameMem s t ∧ SameInputs s t ∧ t.diag = s.diag

/-- All but PC and the registers listed is as before: the frame of an instruction that writes registers only. -/
def SameButRegs (rs : List Reg) (s t : State) : Prop := SameButRegsI rs s t ∧ t.i = s.i

/-- All but PC, SP and the stack is as before: the frame of CALL and RET. -/
def SameButStack (s t : State) : Prop :=
  SameRegsBut [] s t ∧ t.i = s.i ∧ SameTimers s t ∧ SameScreen s t ∧ SameMem s t ∧ SameInputs s t ∧ t.diag = s.diag

/-- All but PC, I and memory is as before: the frame of FX33 and FX55. -/
def SameButMemI (s t : State) : Prop :=
  SameRegsBut [] s t ∧ SameStack s t ∧ SameTimers s t ∧ SameScreen s t ∧ SameInputs s t ∧ t.diag = s.diag

/-- Everything but `diag` is as before: an inert instruction (R242). -/
def SameButDiag (s t : State) : Prop :=
  t.pc = s.pc ∧ t.i = s.i ∧ SameRegsBut [] s t ∧ SameStack s t ∧ SameTimers s t ∧ SameScreen s t ∧ SameMem s t ∧
    SameInputs s t

/-- Everything but the timers, the diagnostic output and the `rnd` input is as before: what a parked step leaves (R266). -/
def SameButTimers (s t : State) : Prop :=
  t.pc = s.pc ∧ t.i = s.i ∧ SameRegsBut [] s t ∧ SameStack s t ∧ SameScreen s t ∧ SameMem s t ∧ t.keys = s.keys

end Sys2Proof.Machine
end

