-- ==== Sys2Proof/Certificates/Slice0/Obligations.lean ====
section
/-! DEFINITION. The statements for the provers, in the order of spec/: encoding, the step, whole-machine rules, memory,
each family's instructions, reset and the invariant, the host interface. A title or docstring that names a decision
D<n> rests on the spec's own choice (spec/92_eei_decisions.md). -/

open Sys2Proof Sys2Proof.Machine

/-! ## Encoding -/

/-- Words written out from R96's patterns decode to the instructions they stand for, one word of each of the sixteen
families (high nibbles 0 to F); four unknown words of TF5-TF9 do not (decisions D6, D7). -/
def Obligations.SampleWordsDecode : Prop :=
  decodeWord 0x00E0#16 = .ok .cls ∧ decodeWord 0x1ABC#16 = .ok (.jp 0xABC#12) ∧
  decodeWord 0x2ABC#16 = .ok (.call 0xABC#12) ∧ decodeWord 0x3A42#16 = .ok (.seImm 10 0x42#8) ∧
  decodeWord 0x4A42#16 = .ok (.sneImm 10 0x42#8) ∧ decodeWord 0x5AB0#16 = .ok (.seReg 10 11) ∧
  decodeWord 0x6A7B#16 = .ok (.ldImm 10 0x7B#8) ∧ decodeWord 0x71FE#16 = .ok (.addImm 1 0xFE#8) ∧
  decodeWord 0x8127#16 = .ok (.subn 1 2) ∧ decodeWord 0x9AB0#16 = .ok (.sneReg 10 11) ∧
  decodeWord 0xA123#16 = .ok (.ldI 0x123#12) ∧ decodeWord 0xB300#16 = .ok (.jpV0 0x300#12) ∧
  decodeWord 0xC10F#16 = .ok (.rnd 1 0x0F#8) ∧
  decodeWord 0xD015#16 = .ok (.drw 0 1 5#4) ∧ decodeWord 0xE2A1#16 = .ok (.sknp 2) ∧
  decodeWord 0xF20A#16 = .ok (.ldVxK 2) ∧ decodeWord 0xF265#16 = .ok (.ldVxMem 2) ∧
  decodeWord 0x0123#16 = .error .family0 ∧ decodeWord 0x5121#16 = .error .family5 ∧
  decodeWord 0x8008#16 = .error .family8 ∧ decodeWord 0xF0FF#16 = .error .familyF

/-- Decoding and encoding agree in both directions, on words and on the bytes in memory order: a word decodes to an
instruction exactly when it is that instruction's word, so no bit of an encoding is dropped and no two words stand for
one instruction. Every `Instr` is well-formed, so this is every instruction at every operand value. -/
def Obligations.DecodeEncodeAgree : Prop :=
  (∀ (w : Word) (i : Instr), decodeWord w = .ok i ↔ encode i = w) ∧
  (∀ (i : Instr) (rest : List Byte), decodeBytes (encodeBytes i ++ rest) = .ok (i, rest)) ∧
  (∀ i : Instr, i.wellFormed = true)

/-- The decoder is R96's table: a word decodes to an instruction of row `k + 1` exactly when `(w AND mask) = match` for
that row; and no word matches two rows. -/
def Obligations.DecoderFollowsOpcodeTable : Prop :=
  (∀ (w : Word) (k : Nat),
    (∃ i, decodeWord w = .ok i ∧ i.asmLine.row = k + 1) ↔ ∃ r, opTable[k]? = some r ∧ r.selects w = true) ∧
  (∀ (w : Word) (j k : Nat) (q r : OpRow), opTable[j]? = some q → opTable[k]? = some r →
    q.selects w = true → r.selects w = true → j = k)

/-- The unknown words are exactly R98's six groups, each rejected under its own name (decisions D6, D7). -/
def Obligations.UnknownWordsByFamily : Prop :=
  ∀ (w : Word) (u : UnknownWord), decodeWord w = .error u ↔
    match u with
    | .family0 => w.toNat < 0x1000 ∧ w.toNat ≠ 0x00E0 ∧ w.toNat ≠ 0x00EE
    | .family5 => w.toNat / 0x1000 = 5 ∧ w.toNat % 16 ≠ 0
    | .family8 => w.toNat / 0x1000 = 8 ∧ w.toNat % 16 ∈ [8, 9, 0xA, 0xB, 0xC, 0xD, 0xF]
    | .family9 => w.toNat / 0x1000 = 9 ∧ w.toNat % 16 ≠ 0
    | .familyE => w.toNat / 0x1000 = 0xE ∧ w.toNat % 256 ∉ [0x9E, 0xA1]
    | .familyF => w.toNat / 0x1000 = 0xF ∧ w.toNat % 256 ∉ [0x07, 0x0A, 0x15, 0x18, 0x1E, 0x29, 0x33, 0x55, 0x65]

/-- A full assembler line stands for an instruction exactly when it is the line that writes it; so a well-formed line
stands for exactly one instruction, and an ill-formed line for none. A line as written, which may omit the Vy of SHR and
SHL, is filled in first: it stands for an instruction exactly when it is that instruction's full line, or SHR Vx or
SHL Vx for the instruction with Y = 0 (decision D24; filling in before the check is the model's choice, log entry 8). -/
def Obligations.AssemblerLineIsOneInstruction : Prop :=
  (∀ (a : AsmLine) (i : Instr), a.instr = some i ↔ i.asmLine = a) ∧
  (∀ a : AsmLine, a.instr.isSome = a.wellFormed) ∧
  (∀ (a : AsmLine) (i : Instr), a.filled.instr = some i ↔
    i.asmLine = a ∨ ∃ x : Reg, (a = ⟨16, [x.val]⟩ ∧ i = .shr x 0) ∨ (a = ⟨18, [x.val]⟩ ∧ i = .shl x 0))

/-! ## The step -/

/-- Fetch is big-endian: the byte at PC is bits 15:8 of the word, the byte at PC + 1 bits 7:0 (R67). -/
def Obligations.FetchIsBigEndian : Prop :=
  ∀ s : State, hiByte s.fetch = s.memRead s.pc.toNat ∧ loByte s.fetch = s.memRead (s.pc.toNat + 1)

/-- When the bytes at PC decode to an instruction, a step is that instruction's `exec` on the state with the `diag`
output cleared, then the tick of DT and ST and the passing of this step's `rnd` byte, and nothing else. -/
def Obligations.StepRunsDecodedInstruction : Prop :=
  ∀ (s : State) (i : Instr),
    decodeBytes [s.memRead s.pc.toNat, s.memRead (s.pc.toNat + 1)] = .ok (i, []) →
    ∃ t, exec i { s with diag := none } = .next t ∧
      step s = .next { t with
        dt := if t.dt = 0#8 then 0#8 else t.dt - 1#8
        st := if t.st = 0#8 then 0#8 else t.st - 1#8
        rndIn := t.rndIn.tail
        draws := t.draws + 1 }

/-- An unknown word is reported and inert: the record (code 1, PC, word) leaves on `diag`, PC stays, the timers tick,
and nothing else changes (decisions D6, D8, D21). -/
def Obligations.UnknownWordIsInert : Prop :=
  ∀ (s : State) (u : UnknownWord), decodeWord s.fetch = .error u →
    ∃ t, step s = .next t ∧ t.diag = some ⟨.unknownOpcode, s.pc, s.fetch⟩ ∧ SameButTimers s t ∧
      t.dt = (if s.dt = 0#8 then 0#8 else s.dt - 1#8) ∧ t.st = (if s.st = 0#8 then 0#8 else s.st - 1#8)

/-- "No behavior is fatal": every instruction completes in every state, and every step answers a next state (decisions
D5, D23). -/
def Obligations.StepAlwaysAnswersNext : Prop :=
  (∀ (i : Instr) (s : State), ∃ t, exec i s = .next t) ∧ ∀ s : State, ∃ t, step s = .next t

/-- What `diag` reports after a step: code 1 for an unknown word, 2 for CALL with a full stack, 3 for RET with an empty
one, with this step's PC and word, and nothing otherwise (decisions D5, D21). -/
def Obligations.DiagnosticsExactlyWhen : Prop :=
  (∀ s t : State, step s = .next t →
    t.diag =
      match decodeWord s.fetch with
      | .error _ => some ⟨.unknownOpcode, s.pc, s.fetch⟩
      | .ok (.call _) => if s.sp.val = 16 then some ⟨.stackOverflow, s.pc, s.fetch⟩ else none
      | .ok .ret => if s.sp.val = 0 then some ⟨.stackUnderflow, s.pc, s.fetch⟩ else none
      | .ok _ => none) ∧
  DiagCode.unknownOpcode.number = 1#2 ∧ DiagCode.stackOverflow.number = 2#2 ∧ DiagCode.stackUnderflow.number = 3#2

/-- A diagnosed step, whichever diagnostic it is, changes DT and ST only (by the tick), beside `diag` and the `rnd`
input (decisions D8, D21). -/
def Obligations.DiagnosedStepIsInert : Prop :=
  ∀ s t : State, step s = .next t → t.diag.isSome = true →
    SameButTimers s t ∧ t.dt = (if s.dt = 0#8 then 0#8 else s.dt - 1#8) ∧
      t.st = (if s.st = 0#8 then 0#8 else s.st - 1#8)

/-- A parked state stays parked: however many steps run with no host operation between them, only DT, ST, `diag` and
the `rnd` input change (decision D29; which states count as parked is R266's list, log entry 14). -/
def Obligations.ParkedForever : Prop :=
  ∀ (n : Nat) (s : State), s.parked = true →
    ∃ t, Host.Core.run Sys2Proof.core n s = .next t ∧ SameButTimers s t ∧ t.parked = true

/-! ## Whole-machine rules -/

/-- R22's table. Writes: `exec` changes no general register outside the instruction's "writes" column. Reads: it depends
on no general register outside the "reads" column: on two states that agree on those, it writes the same values and
leaves all else the same. -/
def Obligations.RegisterReadersAndWriters : Prop :=
  (∀ (i : Instr) (s t : State), exec i s = .next t → SameRegsBut (regWrites s i) s t) ∧
  (∀ (i : Instr) (s : State) (v' : Vector Byte 16), (∀ r : Reg, r ∈ regReads i → v'[r] = s.v[r]) →
    ∃ t t', exec i s = .next t ∧ exec i { s with v := v' } = .next t' ∧ { t' with v := t.v } = t ∧
      ∀ r : Reg, r ∈ regWrites s i → t'.readV r = t.readV r)

/-- Every flag value is 0 or 1: for ADD, SUB, SUBN, SHR and SHL into another register than VF, VF ends 0 or 1 (R163). -/
def Obligations.FlagsAreZeroOrOne : Prop :=
  ∀ (i : Instr) (x y : Reg) (s : State), x ≠ VF →
    i ∈ [Instr.addReg x y, .subReg x y, .subn x y, .shr x y, .shl x y] →
    ∃ t, exec i s = .next t ∧ (t.readV VF = 0#8 ∨ t.readV VF = 1#8)

/-- DT and ST. A step leaves DT at the tick of what FX15 set it to, or of what it was; ST likewise with FX18. DT is read
by FX07 only and ST by no instruction: with other values in them, every instruction leaves everything else the same
(R30; the tick on every step is decision D8). -/
def Obligations.TimersTickAndAreSetByTheirInstructions : Prop :=
  (∀ s t : State, step s = .next t →
    (∀ d, (d = match decodeWord s.fetch with | .ok (.ldDtVx x) => s.readV x | _ => s.dt) →
      t.dt = if d = 0#8 then 0#8 else d - 1#8) ∧
    (∀ d, (d = match decodeWord s.fetch with | .ok (.ldStVx x) => s.readV x | _ => s.st) →
      t.st = if d = 0#8 then 0#8 else d - 1#8)) ∧
  (∀ (i : Instr) (s t : State) (e : Byte), exec i s = .next t →
    ∃ t', exec i { s with st := e } = .next t' ∧ { t' with st := t.st } = t) ∧
  (∀ (i : Instr) (s t : State) (d : Byte), exec i s = .next t → (∀ x, i ≠ .ldVxDt x) →
    ∃ t', exec i { s with dt := d } = .next t' ∧ { t' with dt := t.dt } = t)

/-- The framebuffer: only CLS and DRW change a pixel, and only DRW sets one; the host reads element `y * 64 + x` of 2048
as the pixel at column `x` of row `y` (R31, R259). -/
def Obligations.ScreenWritersAndLayout : Prop :=
  (∀ (i : Instr) (s t : State) (x y : Nat), exec i s = .next t → t.fb.pixel x y ≠ s.fb.pixel x y →
    (∃ a b n, i = .drw a b n) ∨ (i = .cls ∧ t.fb.pixel x y = false)) ∧
  (∀ s : State, s.readFramebuffer.length = 2048 ∧
    ∀ x y : Nat, x < 64 → y < 32 → s.readFramebuffer[y * 64 + x]? = some (s.fb.pixel x y))

/-- redraw_pending: CLS and DRW set it, no other step changes it, and of the host's operations only the acknowledge
clears it and none sets it (R32). -/
def Obligations.RedrawSetByScreenClearedByHost : Prop :=
  (∀ s t : State, step s = .next t →
    t.redraw = match decodeWord s.fetch with | .ok .cls => true | .ok (.drw _ _ _) => true | _ => s.redraw) ∧
  (∀ (s : State) (o : HostOp), (s.afterHost o).redraw = if o = .acknowledgeRedraw then false else s.redraw)

/-- Key states change by the host's set-key-state alone: no step changes one, and of the host's operations only that
one does, and only the key it names; and it changes nothing else (decision D26). -/
def Obligations.KeysChangedOnlyByHost : Prop :=
  (∀ s t : State, step s = .next t → t.keys = s.keys) ∧
  (∀ (s : State) (o : HostOp) (k : Fin 16),
    (s.afterHost o).keyDown k = match o with | .setKey j p => if j = k then p else s.keyDown k | _ => s.keyDown k) ∧
  (∀ (s : State) (k : Fin 16) (p : Bool), { s.setKey k p with keys := s.keys } = s)

/-- I is written by ANNN, FX1E, FX29, FX55 and FX65 only, memory by FX33 and FX55 only, and SP and the
stack by CALL and RET only. -/
def Obligations.IndexMemoryAndStackWriters : Prop :=
  ∀ (i : Instr) (s t : State), exec i s = .next t →
    (t.i ≠ s.i → (∃ n, i = .ldI n) ∨ ∃ x, i = .addI x ∨ i = .ldF x ∨ i = .ldMemVx x ∨ i = .ldVxMem x) ∧
    ((∀ x, i ≠ .ldB x ∧ i ≠ .ldMemVx x) → SameMem s t) ∧
    ((∀ n, i ≠ .call n) → i ≠ .ret → SameStack s t)

/-- The `rnd` input is consumed by CXNN only: with any other bytes on it, every other instruction does the same; and
each step takes one byte (decision D20). -/
def Obligations.RndReadOnlyByCxnn : Prop :=
  (∀ (i : Instr) (s t : State) (q : List Byte) (d : Nat), exec i s = .next t → (∀ x nn, i ≠ .rnd x nn) →
    ∃ t', exec i { s with rndIn := q, draws := d } = .next t' ∧ { t' with rndIn := t.rndIn, draws := t.draws } = t) ∧
  (∀ s t : State, step s = .next t → t.rndIn = s.rndIn.tail ∧ t.draws = s.draws + 1)

/-! ## Memory -/

/-- MemRead after MemWrite: the byte written, at every address with the same low 12 bits, unless they name the glyph ROM
(0x000-0x04F), where the write does nothing; every other byte as before (decisions D2, D3). -/
def Obligations.MemWriteThenMemRead : Prop :=
  ∀ (s : State) (a b : Nat) (x : Byte),
    (s.memWrite a x).memRead b = if a % 4096 = b % 4096 ∧ 0x50 ≤ a % 4096 then x else s.memRead b

/-- In a state that meets the invariant, FX29 on a digit points I at its glyph: the five bytes at I are that digit's
rows of R65's table (the font's bytes are the spec's decision D17). -/
def Obligations.IndexToGlyphReadsTheFont : Prop :=
  ∀ (x : Reg) (s : State), s.Inv → (s.readV x).toNat < 16 →
    ∃ t, exec (.ldF x) s = .next t ∧
      ∀ r < 5, fontGlyphs[(s.readV x).toNat]?.bind (·[r]?) = some (t.memRead (t.indexAddr r))

/-! ## Control transfer -/

/-- JP (R131), encoded 1NNN: PC becomes NNN zero-extended, any NNN, and nothing else changes. -/
def Obligations.JumpAbsolute : Prop :=
  ∀ (nnn : Addr) (s : State), decodeWord (wordNNN 0x1#4 nnn) = .ok (.jp nnn) ∧
    ∃ t, exec (.jp nnn) s = .next t ∧ t.pc.toNat = nnn.toNat ∧ SameButRegs [] s t

/-- JP V0 (R138): PC becomes NNN + V0, always V0, held unreduced in 16 bits (decision D18). -/
def Obligations.JumpWithOffset : Prop :=
  ∀ (nnn : Addr) (s : State), ∃ t, exec (.jpV0 nnn) s = .next t ∧
    t.pc.toNat = nnn.toNat + (s.readV V0).toNat ∧ SameButRegs [] s t

/-- CALL (R132): with room on the stack, this CALL's address is pushed and PC becomes NNN; with the stack full, the
diagnostic STACK_OVERFLOW is raised and nothing else happens (decision D5). -/
def Obligations.CallPushesAndJumps : Prop :=
  (∀ (nnn : Addr) (s : State), s.sp.val < 16 →
    ∃ t, exec (.call nnn) s = .next t ∧ t.pc.toNat = nnn.toNat ∧ t.sp.val = s.sp.val + 1 ∧
      (∀ k : Fin 16, t.stack[k] = if k.val = s.sp.val then s.pc else s.stack[k]) ∧ SameButStack s t) ∧
  (∀ (nnn : Addr) (s : State), s.sp.val = 16 →
    ∃ t, exec (.call nnn) s = .next t ∧ t.diag = some ⟨.stackOverflow, s.pc, encode (.call nnn)⟩ ∧ SameButDiag s t)

/-- RET (R130): with an entry on the stack, PC becomes that entry plus 2 and SP goes down by one, the entry keeping its
value; with none, the diagnostic STACK_UNDERFLOW is raised and nothing else happens (decision D5). -/
def Obligations.ReturnPopsAndContinues : Prop :=
  (∀ (s : State) (k : Fin 16), s.sp.val = k.val + 1 →
    ∃ t, exec .ret s = .next t ∧ t.pc = s.stack[k] + 2#16 ∧ t.sp.val = k.val ∧ t.stack = s.stack ∧ SameButStack s t) ∧
  (∀ s : State, s.sp.val = 0 →
    ∃ t, exec .ret s = .next t ∧ t.diag = some ⟨.stackUnderflow, s.pc, 0x00EE#16⟩ ∧ SameButDiag s t)

/-- "Control resumes at the instruction after that CALL" (R130, R132): once a CALL has been executed with room on the
stack, a RET from any state whose SP and stack are those the CALL left goes to the CALL's address plus 2, with SP as it
was before the CALL. -/
def Obligations.CallThenReturnResumes : Prop :=
  ∀ (nnn : Addr) (s : State), s.sp.val < 16 → ∃ t, exec (.call nnn) s = .next t ∧
    ∀ u : State, u.sp = t.sp → u.stack = t.stack →
      ∃ w, exec .ret u = .next w ∧ w.pc = s.pc + 2#16 ∧ w.sp = s.sp

/-- SE and SNE with an immediate (R134, R135): PC + 4 when Vx equals NN (does not equal it), else PC + 2; nothing else
changes. -/
def Obligations.SkipOnImmediate : Prop :=
  ∀ (x : Reg) (nn : Byte) (s : State),
    (∃ t, exec (.seImm x nn) s = .next t ∧ t.pc = s.pc + (if s.readV x = nn then 4#16 else 2#16) ∧
      SameButRegs [] s t) ∧
    (∃ t, exec (.sneImm x nn) s = .next t ∧ t.pc = s.pc + (if s.readV x = nn then 2#16 else 4#16) ∧
      SameButRegs [] s t)

/-- SE and SNE on registers (R136, R137), `x = y` included; nothing else changes. -/
def Obligations.SkipOnRegisters : Prop :=
  ∀ (x y : Reg) (s : State),
    (∃ t, exec (.seReg x y) s = .next t ∧ t.pc = s.pc + (if s.readV x = s.readV y then 4#16 else 2#16) ∧
      SameButRegs [] s t) ∧
    (∃ t, exec (.sneReg x y) s = .next t ∧ t.pc = s.pc + (if s.readV x = s.readV y then 2#16 else 4#16) ∧
      SameButRegs [] s t)

/-! ## Registers and the ALU -/

/-- LD Vx, byte (R150), encoded 6XNN: Vx becomes NN, VF included as a destination, and nothing else changes but PC + 2.
-/
def Obligations.SetImmediate : Prop :=
  ∀ (x : Reg) (nn : Byte) (s : State), decodeWord (wordXNN 0x6#4 x nn) = .ok (.ldImm x nn) ∧
    ∃ t, exec (.ldImm x nn) s = .next t ∧ t.readV x = nn ∧ t.pc = s.pc + 2#16 ∧ SameButRegs [x] s t

/-- ADD Vx, byte (R151): wraps modulo 256 with no flag (decision D9). -/
def Obligations.AddImmediateWithoutFlag : Prop :=
  ∀ (x : Reg) (nn : Byte) (s : State),
    ∃ t, exec (.addImm x nn) s = .next t ∧ (t.readV x).toNat = ((s.readV x).toNat + nn.toNat) % 256 ∧
      t.pc = s.pc + 2#16 ∧ SameButRegs [x] s t

/-- LD, OR, AND, XOR on registers (R152-R155): the result bit by bit, and no flag: VF changes only as the destination
(decision D9). -/
def Obligations.CopyAndLogicWithoutFlag : Prop :=
  ∀ (x y : Reg) (s : State),
    (∃ t, exec (.ldReg x y) s = .next t ∧ t.readV x = s.readV y ∧ t.pc = s.pc + 2#16 ∧ SameButRegs [x] s t) ∧
    (∃ t, exec (.orReg x y) s = .next t ∧
      (∀ k < 8, (t.readV x).getLsbD k = ((s.readV x).getLsbD k || (s.readV y).getLsbD k)) ∧
      t.pc = s.pc + 2#16 ∧ SameButRegs [x] s t) ∧
    (∃ t, exec (.andReg x y) s = .next t ∧
      (∀ k < 8, (t.readV x).getLsbD k = ((s.readV x).getLsbD k && (s.readV y).getLsbD k)) ∧
      t.pc = s.pc + 2#16 ∧ SameButRegs [x] s t) ∧
    (∃ t, exec (.xorReg x y) s = .next t ∧
      (∀ k < 8, (t.readV x).getLsbD k = ((s.readV x).getLsbD k ^^ (s.readV y).getLsbD k)) ∧
      t.pc = s.pc + 2#16 ∧ SameButRegs [x] s t)

/-- ADD Vx, Vy (R156), encoded 8XY4: Vx is the sum modulo 256, for `x = VF` too, where it overwrites the flag; otherwise
VF is the carry of the exact sum. -/
def Obligations.AddWithCarry : Prop :=
  ∀ (x y : Reg) (s : State), decodeWord (wordXYN 0x8#4 x y 0x4#4) = .ok (.addReg x y) ∧
    ∃ t, exec (.addReg x y) s = .next t ∧
      (t.readV x).toNat = ((s.readV x).toNat + (s.readV y).toNat) % 256 ∧
      (x ≠ VF → t.readV VF = if 0xFF < (s.readV x).toNat + (s.readV y).toNat then 1#8 else 0#8) ∧
      t.pc = s.pc + 2#16 ∧ SameButRegs [x, VF] s t

/-- SUB and SUBN (R157, R159): Vx - Vy and Vy - Vx modulo 256, for `x = VF` too, where the difference overwrites the
flag; otherwise VF is 1 exactly when there is no borrow, equality included (decision D11). -/
def Obligations.SubtractWithNotBorrow : Prop :=
  ∀ (x y : Reg) (s : State),
    (∃ t, exec (.subReg x y) s = .next t ∧
      (t.readV x).toNat = ((s.readV x).toNat + 256 - (s.readV y).toNat) % 256 ∧
      (x ≠ VF → t.readV VF = if (s.readV y).toNat ≤ (s.readV x).toNat then 1#8 else 0#8) ∧
      t.pc = s.pc + 2#16 ∧ SameButRegs [x, VF] s t) ∧
    (∃ t, exec (.subn x y) s = .next t ∧
      (t.readV x).toNat = ((s.readV y).toNat + 256 - (s.readV x).toNat) % 256 ∧
      (x ≠ VF → t.readV VF = if (s.readV x).toNat ≤ (s.readV y).toNat then 1#8 else 0#8) ∧
      t.pc = s.pc + 2#16 ∧ SameButRegs [x, VF] s t)

/-- SHR and SHL (R158, R160): Vx in place, whatever the Y field; for `x ≠ VF`, VF is the bit shifted out (decision
D12). -/
def Obligations.ShiftInPlace : Prop :=
  ∀ (x y : Reg) (s : State),
    (∃ t, exec (.shr x y) s = .next t ∧ (t.readV x).toNat = (s.readV x).toNat / 2 ∧
      (x ≠ VF → (t.readV VF).toNat = (s.readV x).toNat % 2) ∧ t.pc = s.pc + 2#16 ∧ SameButRegs [x, VF] s t) ∧
    (∃ t, exec (.shl x y) s = .next t ∧ (t.readV x).toNat = (s.readV x).toNat * 2 % 256 ∧
      (x ≠ VF → (t.readV VF).toNat = (s.readV x).toNat / 128) ∧ t.pc = s.pc + 2#16 ∧ SameButRegs [x, VF] s t)

/-- RND (R161): Vx becomes the step's random byte masked by NN, whatever the byte: where the host has settled it, that
byte; the free value is not relied on (decision D20). -/
def Obligations.RandomAndMask : Prop :=
  (∀ (x : Reg) (nn : Byte) (s : State), ∃ t, exec (.rnd x nn) s = .next t ∧ t.readV x = s.rnd &&& nn ∧
    t.pc = s.pc + 2#16 ∧ SameButRegs [x] s t) ∧
  (∀ (s : State) (b : Byte) (q : List Byte), s.rndIn = b :: q → s.rnd = b)

/-! ## The framebuffer -/

/-- CLS (R180), encoded 00E0: every pixel 0, redraw_pending set, VF not written, and nothing else changes but PC + 2. -/
def Obligations.ClearScreen : Prop :=
  ∀ s : State, decodeWord 0x00E0#16 = .ok .cls ∧
    ∃ t, exec .cls s = .next t ∧ (∀ x y, t.fb.pixel x y = false) ∧ t.redraw = true ∧ t.pc = s.pc + 2#16 ∧
    SameRegsBut [] s t ∧ t.i = s.i ∧ SameStack s t ∧ SameTimers s t ∧ SameMem s t ∧ SameInputs s t ∧ t.diag = s.diag

/-- DRW (R181-R185): a pixel flips exactly when a 1 bit of the sprite lands on it, the sprite's row `r` being the byte
at I + `r`, its bit 7 the leftmost, its origin (Vx mod 64, Vy mod 32) before VF is written, and what lands off the grid
being lost; VF is 1 exactly when some such pixel was 1, else 0; redraw_pending is set, for N = 0 too; nothing else
changes (decisions D13, D14, D15). -/
def Obligations.DrawSprite : Prop :=
  ∀ (x y : Reg) (n : Nibble) (s : State), ∃ t, exec (.drw x y n) s = .next t ∧
    (∀ cx cy : Nat, t.fb.pixel cx cy ≠ s.fb.pixel cx cy ↔ s.plots x y n cx cy) ∧
    ((∃ cx cy, s.plots x y n cx cy ∧ s.fb.pixel cx cy = true) → t.readV VF = 1#8) ∧
    ((∀ cx cy, s.plots x y n cx cy → s.fb.pixel cx cy = false) → t.readV VF = 0#8) ∧
    t.redraw = true ∧ t.pc = s.pc + 2#16 ∧ t.i = s.i ∧ SameRegsBut [VF] s t ∧ SameStack s t ∧ SameTimers s t ∧
    SameMem s t ∧ SameInputs s t ∧ t.diag = s.diag

/-- Drawing twice restores (R181): a second draw of the same sprite at the same place, its registers and memory
unchanged, brings every pixel back; from a clear screen it reports VF = 1 exactly when the sprite has an on-grid 1 bit
(decision D13). -/
def Obligations.DrawTwiceRestores : Prop :=
  ∀ (x y : Reg) (n : Nibble) (s : State), x ≠ VF → y ≠ VF →
    ∃ t u, exec (.drw x y n) s = .next t ∧ exec (.drw x y n) t = .next u ∧
      (∀ cx cy, u.fb.pixel cx cy = s.fb.pixel cx cy) ∧
      ((∀ cx cy, s.fb.pixel cx cy = false) →
        t.readV VF = 0#8 ∧ (u.readV VF = 1#8 ↔ ∃ cx cy, s.plots x y n cx cy))

/-! ## Keypad and timers -/

/-- SKP and SKNP (R200, R201, R206): the key is Vx mod 16; PC + 4 when it is pressed (not pressed), else PC + 2; nothing
else changes (decision D16). -/
def Obligations.SkipOnKey : Prop :=
  ∀ (x : Reg) (s : State) (k : Fin 16), k.val = (s.readV x).toNat % 16 →
    (∃ t, exec (.skp x) s = .next t ∧ t.pc = s.pc + (if s.keyDown k then 4#16 else 2#16) ∧ SameButRegs [] s t) ∧
    (∃ t, exec (.sknp x) s = .next t ∧ t.pc = s.pc + (if s.keyDown k then 2#16 else 4#16) ∧ SameButRegs [] s t)

/-- LD Vx, DT (R202), encoded FX07: Vx becomes DT as it stands before the step's tick, so after a step it is DT + 1
where DT was above 0; nothing else changes but PC + 2. -/
def Obligations.ReadDelayTimer : Prop :=
  (∀ (x : Reg) (s : State), decodeWord (wordXNN 0xF#4 x 0x07#8) = .ok (.ldVxDt x) ∧
    ∃ t, exec (.ldVxDt x) s = .next t ∧ t.readV x = s.dt ∧ t.pc = s.pc + 2#16 ∧ SameButRegs [x] s t) ∧
  (∀ (x : Reg) (s t : State), decodeWord s.fetch = .ok (.ldVxDt x) → step s = .next t →
    t.readV x = s.dt ∧ (s.dt ≠ 0#8 → (t.readV x).toNat = t.dt.toNat + 1))

/-- LD DT, Vx (R204), encoded FX15: DT becomes Vx and nothing else changes but PC + 2; at the end of the step, after its
tick, DT is Vx - 1, or 0 for Vx = 0; and a following FX07 reads that. -/
def Obligations.SetDelayTimer : Prop :=
  (∀ (x : Reg) (s : State), decodeWord (wordXNN 0xF#4 x 0x15#8) = .ok (.ldDtVx x) ∧
    ∃ t, exec (.ldDtVx x) s = .next t ∧ t.dt = s.readV x ∧ t.st = s.st ∧ t.pc = s.pc + 2#16 ∧
    SameRegsBut [] s t ∧ t.i = s.i ∧ SameStack s t ∧ SameScreen s t ∧ SameMem s t ∧ SameInputs s t ∧ t.diag = s.diag) ∧
  (∀ (x : Reg) (s t : State), decodeWord s.fetch = .ok (.ldDtVx x) → step s = .next t →
    t.dt.toNat = (s.readV x).toNat - 1 ∧
    ∀ (y : Reg) (u : State), decodeWord t.fetch = .ok (.ldVxDt y) → step t = .next u →
      (u.readV y).toNat = (s.readV x).toNat - 1)

/-- LD ST, Vx (R205): ST becomes Vx and nothing else changes but PC + 2; after the step's tick ST is Vx - 1, and the
sound output is on exactly when Vx was 2 or more. -/
def Obligations.SetSoundTimer : Prop :=
  (∀ (x : Reg) (s : State), ∃ t, exec (.ldStVx x) s = .next t ∧ t.st = s.readV x ∧ t.dt = s.dt ∧ t.pc = s.pc + 2#16 ∧
    SameRegsBut [] s t ∧ t.i = s.i ∧ SameStack s t ∧ SameScreen s t ∧ SameMem s t ∧ SameInputs s t ∧ t.diag = s.diag) ∧
  (∀ (x : Reg) (s t : State), decodeWord s.fetch = .ok (.ldStVx x) → step s = .next t →
    t.st.toNat = (s.readV x).toNat - 1 ∧ (t.soundOn = true ↔ 2 ≤ (s.readV x).toNat))

/-- LD Vx, K (R203): with a key pressed, Vx becomes the lowest pressed key's index and PC + 2; with none, PC stays and
no register changes, a retry; nothing else changes either way. -/
def Obligations.WaitForKey : Prop :=
  (∀ (x : Reg) (s : State) (k : Fin 16), s.keyDown k = true → (∀ j < k, s.keyDown j = false) →
    ∃ t, exec (.ldVxK x) s = .next t ∧ (t.readV x).toNat = k.val ∧ t.pc = s.pc + 2#16 ∧ SameButRegs [x] s t) ∧
  (∀ (x : Reg) (s : State), (∀ k : Fin 16, s.keyDown k = false) →
    ∃ t, exec (.ldVxK x) s = .next t ∧ t.pc = s.pc ∧ SameButRegs [] s t)

/-! ## Index register and memory transfers -/

/-- LD I, addr (R220), encoded ANNN: I becomes NNN zero-extended, and nothing else changes but PC + 2. -/
def Obligations.SetIndex : Prop :=
  ∀ (nnn : Addr) (s : State), decodeWord (wordNNN 0xA#4 nnn) = .ok (.ldI nnn) ∧
    ∃ t, exec (.ldI nnn) s = .next t ∧ t.i.toNat = nnn.toNat ∧ t.pc = s.pc + 2#16 ∧ SameButRegsI [] s t

/-- ADD I, Vx (R221): I is the sum modulo 2^16; VF is always written, 1 exactly when the exact sum of the old values
exceeds 0xFFF, `x = VF` included (decision D19). -/
def Obligations.AddToIndex : Prop :=
  ∀ (x : Reg) (s : State),
    ∃ t, exec (.addI x) s = .next t ∧ t.i.toNat = (s.i.toNat + (s.readV x).toNat) % 65536 ∧
      t.readV VF = (if 0xFFF < s.i.toNat + (s.readV x).toNat then 1#8 else 0#8) ∧
      t.pc = s.pc + 2#16 ∧ SameButRegsI [VF] s t

/-- LD F, Vx (R224), encoded FX29: I becomes five times Vx, with no mask, at most 1275; nothing else changes but PC + 2.
-/
def Obligations.IndexToGlyph : Prop :=
  ∀ (x : Reg) (s : State), decodeWord (wordXNN 0xF#4 x 0x29#8) = .ok (.ldF x) ∧
    ∃ t, exec (.ldF x) s = .next t ∧ t.i.toNat = (s.readV x).toNat * 5 ∧ t.i.toNat ≤ 1275 ∧
      t.pc = s.pc + 2#16 ∧ SameButRegsI [] s t

/-- LD B, Vx (R225), encoded FX33: the hundreds digit at I, the tens at I + 1, the ones at I + 2, each address by its
low 12 bits, a store into the glyph ROM being dropped; every other byte reads as before, and nothing else changes, I
included, but PC + 2. (Addresses by their low 12 bits and dropped stores are decisions D2 and D3.) -/
def Obligations.StoreBcd : Prop :=
  ∀ (x : Reg) (s : State), decodeWord (wordXNN 0xF#4 x 0x33#8) = .ok (.ldB x) ∧
    ∃ t, exec (.ldB x) s = .next t ∧ t.pc = s.pc + 2#16 ∧ t.i = s.i ∧ SameButMemI s t ∧
    ∀ b : Nat, (t.memRead b).toNat =
      if addr12 b < 0x50 then (s.memRead b).toNat
      else if addr12 b = addr12 (s.indexAddr 0) then (s.readV x).toNat / 100
      else if addr12 b = addr12 (s.indexAddr 1) then (s.readV x).toNat / 10 % 10
      else if addr12 b = addr12 (s.indexAddr 2) then (s.readV x).toNat % 10
      else (s.memRead b).toNat

/-- LD [I], Vx (R226), encoded FX55: V0 to VX at I to I + X, each address by its low 12 bits, a store into the glyph ROM
being dropped; every other byte reads as before; I goes up by X + 1 modulo 2^16; nothing else changes but PC + 2.
(Decisions D2 and D3, as for FX33.) -/
def Obligations.RegisterDump : Prop :=
  ∀ (x : Reg) (s : State), decodeWord (wordXNN 0xF#4 x 0x55#8) = .ok (.ldMemVx x) ∧
    ∃ t, exec (.ldMemVx x) s = .next t ∧ t.pc = s.pc + 2#16 ∧
    t.i.toNat = (s.i.toNat + x.val + 1) % 65536 ∧ SameButMemI s t ∧
    (∀ (k : Reg) (b : Nat), k ≤ x → addr12 (s.indexAddr k.val) = addr12 b → 0x50 ≤ addr12 b →
      t.memRead b = s.readV k) ∧
    (∀ b : Nat, addr12 b < 0x50 ∨ (∀ k : Reg, k ≤ x → addr12 (s.indexAddr k.val) ≠ addr12 b) →
      t.memRead b = s.memRead b)

/-- LD Vx, [I] (R227): V0 to VX from I to I + X, VF included for X = 15; I goes up by X + 1 modulo 2^16; no byte of
memory changes, nor anything else but PC + 2. -/
def Obligations.RegisterLoad : Prop :=
  ∀ (x : Reg) (s : State), ∃ t, exec (.ldVxMem x) s = .next t ∧ t.pc = s.pc + 2#16 ∧
    t.i.toNat = (s.i.toNat + x.val + 1) % 65536 ∧
    (∀ k : Reg, k ≤ x → t.readV k = s.memRead (s.indexAddr k.val)) ∧ SameButRegsI (regsUpTo x) s t

/-- The dump and load round trip (R227): where no store of the dump lands in the glyph ROM, a load from a state with the
dump's memory and the old I restores V0 to VX, and I ends X + 1 past its start, modulo 2^16, both times. -/
def Obligations.DumpThenLoadRestores : Prop :=
  ∀ (x : Reg) (s : State), (∀ k : Reg, k ≤ x → 0x50 ≤ addr12 (s.indexAddr k.val)) →
    ∃ t, exec (.ldMemVx x) s = .next t ∧ t.i.toNat = (s.i.toNat + x.val + 1) % 65536 ∧
      ∀ u : State, u.mem = t.mem → u.i = s.i →
        ∃ w, exec (.ldVxMem x) u = .next w ∧ (∀ k : Reg, k ≤ x → w.readV k = s.readV k) ∧
          w.i.toNat = (s.i.toNat + x.val + 1) % 65536

/-! ## Reset and the invariant -/

/-- Reset (R37): PC is 0x200, memory is the font and zeros, and every other piece of state is zero, empty, released or
unlit (all but PC is the spec's decision D4, and the font's bytes its decision D17). -/
def Obligations.ResetState : Prop :=
  State.reset.pc = 0x200#16 ∧
  (∀ a : Nat, State.reset.memRead a = if addr12 a < 0x50 then fontByte (addr12 a) else 0#8) ∧
  (∀ r, State.reset.readV r = 0#8) ∧ State.reset.i = 0#16 ∧ State.reset.sp.val = 0 ∧
  (∀ k : Fin 16, State.reset.stack[k] = 0#16) ∧ State.reset.dt = 0#8 ∧ State.reset.st = 0#8 ∧
  (∀ x y, State.reset.fb.pixel x y = false) ∧ State.reset.redraw = false ∧ ∀ k, State.reset.keyDown k = false

/-- The invariant holds at reset. -/
def Obligations.ResetMeetsInvariant : Prop := State.reset.Inv

/-- Every step keeps the invariant: memory stays in its canonical form and the glyph ROM keeps the font (R38, R64). -/
def Obligations.StepKeepsInvariant : Prop :=
  ∀ s t : State, s.Inv → step s = .next t → t.Inv

/-! ## The host interface -/

/-- Every host operation keeps the invariant: the loader "never reaches the ROM" (R64, R260). -/
def Obligations.HostKeepsInvariant : Prop :=
  ∀ (s : State) (o : HostOp), s.Inv → (s.afterHost o).Inv

/-- The cartridge load (R260): up to 3584 bytes go to 0x200 and on, every other byte and all other state as before; more
than 3584 is a capacity error, and nothing is written (decision D22). -/
def Obligations.LoadCartridge : Prop :=
  (∀ (s : State) (bytes : List Byte), bytes.length ≤ 3584 →
    ∃ t, s.load bytes = .ok t ∧ { t with mem := s.mem } = s ∧
      (∀ (j a : Nat) (h : j < bytes.length), addr12 a = 0x200 + j → t.memRead a = bytes[j]) ∧
      (∀ a : Nat, addr12 a < 0x200 ∨ 0x200 + bytes.length ≤ addr12 a → t.memRead a = s.memRead a)) ∧
  (∀ (s : State) (bytes : List Byte), 3584 < bytes.length →
    s.load bytes = .error .capacity ∧ s.afterHost (.load bytes) = s)

/-- The sound output is on exactly when ST is not 0, and acknowledge_redraw clears redraw_pending and changes nothing
else (decision D27). -/
def Obligations.SoundAndAcknowledge : Prop :=
  (∀ s : State, s.soundOn = true ↔ s.st ≠ 0#8) ∧
  (∀ s : State, s.acknowledgeRedraw.shouldRedraw = false ∧ { s.acknowledgeRedraw with redraw := s.redraw } = s)
end

