-- ==== Sys2Proof/Laws/Decode.lean ====
section
/-! SUPPORT. The fields and layouts of a word as numbers, each field of each layout, and the two directions of the
round trip's layouts. -/

namespace Sys2Proof

/-! ## Numbers -/

theorem toNat_concat {n m : Nat} (a : BitVec n) (b : BitVec m) : (a ++ b).toNat = a.toNat * 2 ^ m + b.toNat := by
  rw [BitVec.toNat_append, Nat.shiftLeft_eq, Nat.mul_comm, ← Nat.two_pow_add_eq_or_of_lt b.isLt, Nat.mul_comm]

theorem toNat_wordOfBytes (hi lo : Byte) : (wordOfBytes hi lo).toNat = hi.toNat * 256 + lo.toNat := toNat_concat hi lo

theorem toNat_wordNNN (f : Nibble) (a : Addr) : (wordNNN f a).toNat = f.toNat * 4096 + a.toNat := toNat_concat f a

theorem toNat_wordXNN (f : Nibble) (x : Reg) (nn : Byte) :
    (wordXNN f x nn).toNat = (f.toNat * 16 + x.val) * 256 + nn.toNat :=
  (toNat_concat (f ++ regBits x) nn).trans (by rw [toNat_concat]; rfl)

theorem toNat_wordXYN (f : Nibble) (x y : Reg) (n : Nibble) :
    (wordXYN f x y n).toNat = ((f.toNat * 16 + x.val) * 16 + y.val) * 16 + n.toNat :=
  (toNat_concat (f ++ regBits x ++ regBits y) n).trans (by rw [toNat_concat, toNat_concat]; rfl)

theorem toNat_fieldF (w : Word) : (fieldF w).toNat = w.toNat / 4096 := by
  have := w.isLt
  simp [fieldF, Nat.shiftRight_eq_div_pow]; omega

theorem val_fieldX (w : Word) : (fieldX w).val = w.toNat / 256 % 16 := by
  simp [fieldX, Nat.shiftRight_eq_div_pow]

theorem val_fieldY (w : Word) : (fieldY w).val = w.toNat / 16 % 16 := by
  simp [fieldY, Nat.shiftRight_eq_div_pow]

theorem toNat_fieldN (w : Word) : (fieldN w).toNat = w.toNat % 16 := by simp [fieldN]

theorem toNat_fieldNN (w : Word) : (fieldNN w).toNat = w.toNat % 256 := by simp [fieldNN]

theorem toNat_fieldNNN (w : Word) : (fieldNNN w).toNat = w.toNat % 4096 := by simp [fieldNNN]

theorem toNat_hiByte (w : Word) : (hiByte w).toNat = w.toNat / 256 := by
  have := w.isLt
  simp [hiByte, Nat.shiftRight_eq_div_pow]; omega

theorem toNat_loByte (w : Word) : (loByte w).toNat = w.toNat % 256 := by simp [loByte]

/-! ## The fields of each layout -/

section
variable (f n : Nibble) (x y : Reg) (nn : Byte) (a : Addr)

@[simp] theorem fieldF_wordNNN : fieldF (wordNNN f a) = f := by
  apply BitVec.eq_of_toNat_eq; rw [toNat_fieldF, toNat_wordNNN]; omega

@[simp] theorem fieldNNN_wordNNN : fieldNNN (wordNNN f a) = a := by
  apply BitVec.eq_of_toNat_eq; rw [toNat_fieldNNN, toNat_wordNNN]; omega

@[simp] theorem fieldF_wordXNN : fieldF (wordXNN f x nn) = f := by
  apply BitVec.eq_of_toNat_eq; rw [toNat_fieldF, toNat_wordXNN]; omega

@[simp] theorem fieldX_wordXNN : fieldX (wordXNN f x nn) = x := by
  apply Fin.ext; rw [val_fieldX, toNat_wordXNN]; omega

@[simp] theorem fieldNN_wordXNN : fieldNN (wordXNN f x nn) = nn := by
  apply BitVec.eq_of_toNat_eq; rw [toNat_fieldNN, toNat_wordXNN]; omega

@[simp] theorem fieldF_wordXYN : fieldF (wordXYN f x y n) = f := by
  apply BitVec.eq_of_toNat_eq; rw [toNat_fieldF, toNat_wordXYN]; omega

@[simp] theorem fieldX_wordXYN : fieldX (wordXYN f x y n) = x := by
  apply Fin.ext; rw [val_fieldX, toNat_wordXYN]; omega

@[simp] theorem fieldY_wordXYN : fieldY (wordXYN f x y n) = y := by
  apply Fin.ext; rw [val_fieldY, toNat_wordXYN]; omega

@[simp] theorem fieldN_wordXYN : fieldN (wordXYN f x y n) = n := by
  apply BitVec.eq_of_toNat_eq; rw [toNat_fieldN, toNat_wordXYN]; omega

end

/-! ## A word is its fields -/

theorem wordOfBytes_hi_lo (w : Word) : wordOfBytes (hiByte w) (loByte w) = w := by
  apply BitVec.eq_of_toNat_eq; rw [toNat_wordOfBytes, toNat_hiByte, toNat_loByte]; omega

theorem wordNNN_fields {w : Word} {f : Nibble} (h : (fieldF w).toNat = f.toNat) : wordNNN f (fieldNNN w) = w := by
  rw [toNat_fieldF] at h
  apply BitVec.eq_of_toNat_eq; rw [toNat_wordNNN, toNat_fieldNNN]; omega

theorem wordXNN_fields {w : Word} {f : Nibble} {nn : Byte} (h : (fieldF w).toNat = f.toNat)
    (hn : (fieldNN w).toNat = nn.toNat) : wordXNN f (fieldX w) nn = w := by
  rw [toNat_fieldF] at h; rw [toNat_fieldNN] at hn
  apply BitVec.eq_of_toNat_eq; rw [toNat_wordXNN, val_fieldX]; omega

theorem wordXYN_fields {w : Word} {f n : Nibble} (h : (fieldF w).toNat = f.toNat)
    (hn : (fieldN w).toNat = n.toNat) : wordXYN f (fieldX w) (fieldY w) n = w := by
  rw [toNat_fieldF] at h; rw [toNat_fieldN] at hn
  apply BitVec.eq_of_toNat_eq; rw [toNat_wordXYN, val_fieldX, val_fieldY]; omega

/-- Decoding the two bytes of a word is decoding the word. -/
theorem decodeBytes_of_word (w : Word) (rest : List Byte) :
    decodeBytes (hiByte w :: loByte w :: rest) =
      match decodeWord w with
      | .ok i => .ok (i, rest)
      | .error u => .error (.unknown u) := by
  cases h : decodeWord w <;> simp only [decodeBytes, wordOfBytes_hi_lo, h]

end Sys2Proof
end

