-- ==== Sys2Proof/Laws/State.lean ====
section
/-! SUPPORT. One lemma per field per update, each true by unfolding the update once, so that no later proof unfolds a
record update. -/

namespace Sys2Proof.Machine

/-! ### `writeV` -/

@[simp] theorem State.writeV_v (s : State) (r : Reg) (x : Byte) : (s.writeV r x).v = s.v.set r x := rfl
@[simp] theorem State.writeV_pc (s : State) (r : Reg) (x : Byte) : (s.writeV r x).pc = s.pc := rfl
@[simp] theorem State.writeV_i (s : State) (r : Reg) (x : Byte) : (s.writeV r x).i = s.i := rfl
@[simp] theorem State.writeV_sp (s : State) (r : Reg) (x : Byte) : (s.writeV r x).sp = s.sp := rfl
@[simp] theorem State.writeV_stack (s : State) (r : Reg) (x : Byte) : (s.writeV r x).stack = s.stack := rfl
@[simp] theorem State.writeV_dt (s : State) (r : Reg) (x : Byte) : (s.writeV r x).dt = s.dt := rfl
@[simp] theorem State.writeV_st (s : State) (r : Reg) (x : Byte) : (s.writeV r x).st = s.st := rfl
@[simp] theorem State.writeV_fb (s : State) (r : Reg) (x : Byte) : (s.writeV r x).fb = s.fb := rfl
@[simp] theorem State.writeV_redraw (s : State) (r : Reg) (x : Byte) : (s.writeV r x).redraw = s.redraw := rfl
@[simp] theorem State.writeV_keys (s : State) (r : Reg) (x : Byte) : (s.writeV r x).keys = s.keys := rfl
@[simp] theorem State.writeV_mem (s : State) (r : Reg) (x : Byte) : (s.writeV r x).mem = s.mem := rfl
@[simp] theorem State.writeV_diag (s : State) (r : Reg) (x : Byte) : (s.writeV r x).diag = s.diag := rfl
@[simp] theorem State.writeV_rndIn (s : State) (r : Reg) (x : Byte) : (s.writeV r x).rndIn = s.rndIn := rfl
@[simp] theorem State.writeV_draws (s : State) (r : Reg) (x : Byte) : (s.writeV r x).draws = s.draws := rfl

/-! ### `writeI` -/

@[simp] theorem State.writeI_v (s : State) (x : Word) : (s.writeI x).v = s.v := rfl
@[simp] theorem State.writeI_pc (s : State) (x : Word) : (s.writeI x).pc = s.pc := rfl
@[simp] theorem State.writeI_i (s : State) (x : Word) : (s.writeI x).i = x := rfl
@[simp] theorem State.writeI_sp (s : State) (x : Word) : (s.writeI x).sp = s.sp := rfl
@[simp] theorem State.writeI_stack (s : State) (x : Word) : (s.writeI x).stack = s.stack := rfl
@[simp] theorem State.writeI_dt (s : State) (x : Word) : (s.writeI x).dt = s.dt := rfl
@[simp] theorem State.writeI_st (s : State) (x : Word) : (s.writeI x).st = s.st := rfl
@[simp] theorem State.writeI_fb (s : State) (x : Word) : (s.writeI x).fb = s.fb := rfl
@[simp] theorem State.writeI_redraw (s : State) (x : Word) : (s.writeI x).redraw = s.redraw := rfl
@[simp] theorem State.writeI_keys (s : State) (x : Word) : (s.writeI x).keys = s.keys := rfl
@[simp] theorem State.writeI_mem (s : State) (x : Word) : (s.writeI x).mem = s.mem := rfl
@[simp] theorem State.writeI_diag (s : State) (x : Word) : (s.writeI x).diag = s.diag := rfl
@[simp] theorem State.writeI_rndIn (s : State) (x : Word) : (s.writeI x).rndIn = s.rndIn := rfl
@[simp] theorem State.writeI_draws (s : State) (x : Word) : (s.writeI x).draws = s.draws := rfl

/-! ### `jumpTo` -/

@[simp] theorem State.jumpTo_v (s : State) (x : Word) : (s.jumpTo x).v = s.v := rfl
@[simp] theorem State.jumpTo_pc (s : State) (x : Word) : (s.jumpTo x).pc = x := rfl
@[simp] theorem State.jumpTo_i (s : State) (x : Word) : (s.jumpTo x).i = s.i := rfl
@[simp] theorem State.jumpTo_sp (s : State) (x : Word) : (s.jumpTo x).sp = s.sp := rfl
@[simp] theorem State.jumpTo_stack (s : State) (x : Word) : (s.jumpTo x).stack = s.stack := rfl
@[simp] theorem State.jumpTo_dt (s : State) (x : Word) : (s.jumpTo x).dt = s.dt := rfl
@[simp] theorem State.jumpTo_st (s : State) (x : Word) : (s.jumpTo x).st = s.st := rfl
@[simp] theorem State.jumpTo_fb (s : State) (x : Word) : (s.jumpTo x).fb = s.fb := rfl
@[simp] theorem State.jumpTo_redraw (s : State) (x : Word) : (s.jumpTo x).redraw = s.redraw := rfl
@[simp] theorem State.jumpTo_keys (s : State) (x : Word) : (s.jumpTo x).keys = s.keys := rfl
@[simp] theorem State.jumpTo_mem (s : State) (x : Word) : (s.jumpTo x).mem = s.mem := rfl
@[simp] theorem State.jumpTo_diag (s : State) (x : Word) : (s.jumpTo x).diag = s.diag := rfl
@[simp] theorem State.jumpTo_rndIn (s : State) (x : Word) : (s.jumpTo x).rndIn = s.rndIn := rfl
@[simp] theorem State.jumpTo_draws (s : State) (x : Word) : (s.jumpTo x).draws = s.draws := rfl

/-! ### `advance2` -/

@[simp] theorem State.advance2_v (s : State) : s.advance2.v = s.v := rfl
@[simp] theorem State.advance2_pc (s : State) : s.advance2.pc = s.pc + 2#16 := rfl
@[simp] theorem State.advance2_i (s : State) : s.advance2.i = s.i := rfl
@[simp] theorem State.advance2_sp (s : State) : s.advance2.sp = s.sp := rfl
@[simp] theorem State.advance2_stack (s : State) : s.advance2.stack = s.stack := rfl
@[simp] theorem State.advance2_dt (s : State) : s.advance2.dt = s.dt := rfl
@[simp] theorem State.advance2_st (s : State) : s.advance2.st = s.st := rfl
@[simp] theorem State.advance2_fb (s : State) : s.advance2.fb = s.fb := rfl
@[simp] theorem State.advance2_redraw (s : State) : s.advance2.redraw = s.redraw := rfl
@[simp] theorem State.advance2_keys (s : State) : s.advance2.keys = s.keys := rfl
@[simp] theorem State.advance2_mem (s : State) : s.advance2.mem = s.mem := rfl
@[simp] theorem State.advance2_diag (s : State) : s.advance2.diag = s.diag := rfl
@[simp] theorem State.advance2_rndIn (s : State) : s.advance2.rndIn = s.rndIn := rfl
@[simp] theorem State.advance2_draws (s : State) : s.advance2.draws = s.draws := rfl

/-! ### `advance4` -/

@[simp] theorem State.advance4_v (s : State) : s.advance4.v = s.v := rfl
@[simp] theorem State.advance4_pc (s : State) : s.advance4.pc = s.pc + 4#16 := rfl
@[simp] theorem State.advance4_i (s : State) : s.advance4.i = s.i := rfl
@[simp] theorem State.advance4_sp (s : State) : s.advance4.sp = s.sp := rfl
@[simp] theorem State.advance4_stack (s : State) : s.advance4.stack = s.stack := rfl
@[simp] theorem State.advance4_dt (s : State) : s.advance4.dt = s.dt := rfl
@[simp] theorem State.advance4_st (s : State) : s.advance4.st = s.st := rfl
@[simp] theorem State.advance4_fb (s : State) : s.advance4.fb = s.fb := rfl
@[simp] theorem State.advance4_redraw (s : State) : s.advance4.redraw = s.redraw := rfl
@[simp] theorem State.advance4_keys (s : State) : s.advance4.keys = s.keys := rfl
@[simp] theorem State.advance4_mem (s : State) : s.advance4.mem = s.mem := rfl
@[simp] theorem State.advance4_diag (s : State) : s.advance4.diag = s.diag := rfl
@[simp] theorem State.advance4_rndIn (s : State) : s.advance4.rndIn = s.rndIn := rfl
@[simp] theorem State.advance4_draws (s : State) : s.advance4.draws = s.draws := rfl

/-! ### `raiseDiag` -/

@[simp] theorem State.raiseDiag_v (s : State) (c : DiagCode) (w : Word) : (s.raiseDiag c w).v = s.v := rfl
@[simp] theorem State.raiseDiag_pc (s : State) (c : DiagCode) (w : Word) : (s.raiseDiag c w).pc = s.pc := rfl
@[simp] theorem State.raiseDiag_i (s : State) (c : DiagCode) (w : Word) : (s.raiseDiag c w).i = s.i := rfl
@[simp] theorem State.raiseDiag_sp (s : State) (c : DiagCode) (w : Word) : (s.raiseDiag c w).sp = s.sp := rfl
@[simp] theorem State.raiseDiag_stack (s : State) (c : DiagCode) (w : Word) : (s.raiseDiag c w).stack = s.stack := rfl
@[simp] theorem State.raiseDiag_dt (s : State) (c : DiagCode) (w : Word) : (s.raiseDiag c w).dt = s.dt := rfl
@[simp] theorem State.raiseDiag_st (s : State) (c : DiagCode) (w : Word) : (s.raiseDiag c w).st = s.st := rfl
@[simp] theorem State.raiseDiag_fb (s : State) (c : DiagCode) (w : Word) : (s.raiseDiag c w).fb = s.fb := rfl
@[simp] theorem State.raiseDiag_redraw (s : State) (c : DiagCode) (w : Word) : (s.raiseDiag c w).redraw = s.redraw := rfl
@[simp] theorem State.raiseDiag_keys (s : State) (c : DiagCode) (w : Word) : (s.raiseDiag c w).keys = s.keys := rfl
@[simp] theorem State.raiseDiag_mem (s : State) (c : DiagCode) (w : Word) : (s.raiseDiag c w).mem = s.mem := rfl
@[simp] theorem State.raiseDiag_diag (s : State) (c : DiagCode) (w : Word) : (s.raiseDiag c w).diag = some ⟨c, s.pc, w⟩ := rfl
@[simp] theorem State.raiseDiag_rndIn (s : State) (c : DiagCode) (w : Word) : (s.raiseDiag c w).rndIn = s.rndIn := rfl
@[simp] theorem State.raiseDiag_draws (s : State) (c : DiagCode) (w : Word) : (s.raiseDiag c w).draws = s.draws := rfl

/-! ### `beginStep` -/

@[simp] theorem State.beginStep_v (s : State) : s.beginStep.v = s.v := rfl
@[simp] theorem State.beginStep_pc (s : State) : s.beginStep.pc = s.pc := rfl
@[simp] theorem State.beginStep_i (s : State) : s.beginStep.i = s.i := rfl
@[simp] theorem State.beginStep_sp (s : State) : s.beginStep.sp = s.sp := rfl
@[simp] theorem State.beginStep_stack (s : State) : s.beginStep.stack = s.stack := rfl
@[simp] theorem State.beginStep_dt (s : State) : s.beginStep.dt = s.dt := rfl
@[simp] theorem State.beginStep_st (s : State) : s.beginStep.st = s.st := rfl
@[simp] theorem State.beginStep_fb (s : State) : s.beginStep.fb = s.fb := rfl
@[simp] theorem State.beginStep_redraw (s : State) : s.beginStep.redraw = s.redraw := rfl
@[simp] theorem State.beginStep_keys (s : State) : s.beginStep.keys = s.keys := rfl
@[simp] theorem State.beginStep_mem (s : State) : s.beginStep.mem = s.mem := rfl
@[simp] theorem State.beginStep_diag (s : State) : s.beginStep.diag = none := rfl
@[simp] theorem State.beginStep_rndIn (s : State) : s.beginStep.rndIn = s.rndIn := rfl
@[simp] theorem State.beginStep_draws (s : State) : s.beginStep.draws = s.draws := rfl

/-! ### `tick` -/

@[simp] theorem State.tick_v (s : State) : s.tick.v = s.v := rfl
@[simp] theorem State.tick_pc (s : State) : s.tick.pc = s.pc := rfl
@[simp] theorem State.tick_i (s : State) : s.tick.i = s.i := rfl
@[simp] theorem State.tick_sp (s : State) : s.tick.sp = s.sp := rfl
@[simp] theorem State.tick_stack (s : State) : s.tick.stack = s.stack := rfl
@[simp] theorem State.tick_dt (s : State) : s.tick.dt = tickTimer s.dt := rfl
@[simp] theorem State.tick_st (s : State) : s.tick.st = tickTimer s.st := rfl
@[simp] theorem State.tick_fb (s : State) : s.tick.fb = s.fb := rfl
@[simp] theorem State.tick_redraw (s : State) : s.tick.redraw = s.redraw := rfl
@[simp] theorem State.tick_keys (s : State) : s.tick.keys = s.keys := rfl
@[simp] theorem State.tick_mem (s : State) : s.tick.mem = s.mem := rfl
@[simp] theorem State.tick_diag (s : State) : s.tick.diag = s.diag := rfl
@[simp] theorem State.tick_rndIn (s : State) : s.tick.rndIn = s.rndIn := rfl
@[simp] theorem State.tick_draws (s : State) : s.tick.draws = s.draws := rfl

/-! ### `nextRnd` -/

@[simp] theorem State.nextRnd_v (s : State) : s.nextRnd.v = s.v := rfl
@[simp] theorem State.nextRnd_pc (s : State) : s.nextRnd.pc = s.pc := rfl
@[simp] theorem State.nextRnd_i (s : State) : s.nextRnd.i = s.i := rfl
@[simp] theorem State.nextRnd_sp (s : State) : s.nextRnd.sp = s.sp := rfl
@[simp] theorem State.nextRnd_stack (s : State) : s.nextRnd.stack = s.stack := rfl
@[simp] theorem State.nextRnd_dt (s : State) : s.nextRnd.dt = s.dt := rfl
@[simp] theorem State.nextRnd_st (s : State) : s.nextRnd.st = s.st := rfl
@[simp] theorem State.nextRnd_fb (s : State) : s.nextRnd.fb = s.fb := rfl
@[simp] theorem State.nextRnd_redraw (s : State) : s.nextRnd.redraw = s.redraw := rfl
@[simp] theorem State.nextRnd_keys (s : State) : s.nextRnd.keys = s.keys := rfl
@[simp] theorem State.nextRnd_mem (s : State) : s.nextRnd.mem = s.mem := rfl
@[simp] theorem State.nextRnd_diag (s : State) : s.nextRnd.diag = s.diag := rfl
@[simp] theorem State.nextRnd_rndIn (s : State) : s.nextRnd.rndIn = s.rndIn.tail := rfl
@[simp] theorem State.nextRnd_draws (s : State) : s.nextRnd.draws = s.draws + 1 := rfl

/-! ### `endStep` -/

@[simp] theorem State.endStep_v (s : State) : s.endStep.v = s.v := rfl
@[simp] theorem State.endStep_pc (s : State) : s.endStep.pc = s.pc := rfl
@[simp] theorem State.endStep_i (s : State) : s.endStep.i = s.i := rfl
@[simp] theorem State.endStep_sp (s : State) : s.endStep.sp = s.sp := rfl
@[simp] theorem State.endStep_stack (s : State) : s.endStep.stack = s.stack := rfl
@[simp] theorem State.endStep_dt (s : State) : s.endStep.dt = tickTimer s.dt := rfl
@[simp] theorem State.endStep_st (s : State) : s.endStep.st = tickTimer s.st := rfl
@[simp] theorem State.endStep_fb (s : State) : s.endStep.fb = s.fb := rfl
@[simp] theorem State.endStep_redraw (s : State) : s.endStep.redraw = s.redraw := rfl
@[simp] theorem State.endStep_keys (s : State) : s.endStep.keys = s.keys := rfl
@[simp] theorem State.endStep_mem (s : State) : s.endStep.mem = s.mem := rfl
@[simp] theorem State.endStep_diag (s : State) : s.endStep.diag = s.diag := rfl
@[simp] theorem State.endStep_rndIn (s : State) : s.endStep.rndIn = s.rndIn.tail := rfl
@[simp] theorem State.endStep_draws (s : State) : s.endStep.draws = s.draws + 1 := rfl

/-! ### `showScreen` -/

@[simp] theorem State.showScreen_v (s : State) (f : Framebuffer) : (s.showScreen f).v = s.v := rfl
@[simp] theorem State.showScreen_pc (s : State) (f : Framebuffer) : (s.showScreen f).pc = s.pc := rfl
@[simp] theorem State.showScreen_i (s : State) (f : Framebuffer) : (s.showScreen f).i = s.i := rfl
@[simp] theorem State.showScreen_sp (s : State) (f : Framebuffer) : (s.showScreen f).sp = s.sp := rfl
@[simp] theorem State.showScreen_stack (s : State) (f : Framebuffer) : (s.showScreen f).stack = s.stack := rfl
@[simp] theorem State.showScreen_dt (s : State) (f : Framebuffer) : (s.showScreen f).dt = s.dt := rfl
@[simp] theorem State.showScreen_st (s : State) (f : Framebuffer) : (s.showScreen f).st = s.st := rfl
@[simp] theorem State.showScreen_fb (s : State) (f : Framebuffer) : (s.showScreen f).fb = f := rfl
@[simp] theorem State.showScreen_redraw (s : State) (f : Framebuffer) : (s.showScreen f).redraw = true := rfl
@[simp] theorem State.showScreen_keys (s : State) (f : Framebuffer) : (s.showScreen f).keys = s.keys := rfl
@[simp] theorem State.showScreen_mem (s : State) (f : Framebuffer) : (s.showScreen f).mem = s.mem := rfl
@[simp] theorem State.showScreen_diag (s : State) (f : Framebuffer) : (s.showScreen f).diag = s.diag := rfl
@[simp] theorem State.showScreen_rndIn (s : State) (f : Framebuffer) : (s.showScreen f).rndIn = s.rndIn := rfl
@[simp] theorem State.showScreen_draws (s : State) (f : Framebuffer) : (s.showScreen f).draws = s.draws := rfl

/-! ### `setKey` -/

@[simp] theorem State.setKey_v (s : State) (k : Fin 16) (p : Bool) : (s.setKey k p).v = s.v := rfl
@[simp] theorem State.setKey_pc (s : State) (k : Fin 16) (p : Bool) : (s.setKey k p).pc = s.pc := rfl
@[simp] theorem State.setKey_i (s : State) (k : Fin 16) (p : Bool) : (s.setKey k p).i = s.i := rfl
@[simp] theorem State.setKey_sp (s : State) (k : Fin 16) (p : Bool) : (s.setKey k p).sp = s.sp := rfl
@[simp] theorem State.setKey_stack (s : State) (k : Fin 16) (p : Bool) : (s.setKey k p).stack = s.stack := rfl
@[simp] theorem State.setKey_dt (s : State) (k : Fin 16) (p : Bool) : (s.setKey k p).dt = s.dt := rfl
@[simp] theorem State.setKey_st (s : State) (k : Fin 16) (p : Bool) : (s.setKey k p).st = s.st := rfl
@[simp] theorem State.setKey_fb (s : State) (k : Fin 16) (p : Bool) : (s.setKey k p).fb = s.fb := rfl
@[simp] theorem State.setKey_redraw (s : State) (k : Fin 16) (p : Bool) : (s.setKey k p).redraw = s.redraw := rfl
@[simp] theorem State.setKey_keys (s : State) (k : Fin 16) (p : Bool) : (s.setKey k p).keys = s.keys.set k p := rfl
@[simp] theorem State.setKey_mem (s : State) (k : Fin 16) (p : Bool) : (s.setKey k p).mem = s.mem := rfl
@[simp] theorem State.setKey_diag (s : State) (k : Fin 16) (p : Bool) : (s.setKey k p).diag = s.diag := rfl
@[simp] theorem State.setKey_rndIn (s : State) (k : Fin 16) (p : Bool) : (s.setKey k p).rndIn = s.rndIn := rfl
@[simp] theorem State.setKey_draws (s : State) (k : Fin 16) (p : Bool) : (s.setKey k p).draws = s.draws := rfl

/-! ### `acknowledgeRedraw` -/

@[simp] theorem State.acknowledgeRedraw_v (s : State) : s.acknowledgeRedraw.v = s.v := rfl
@[simp] theorem State.acknowledgeRedraw_pc (s : State) : s.acknowledgeRedraw.pc = s.pc := rfl
@[simp] theorem State.acknowledgeRedraw_i (s : State) : s.acknowledgeRedraw.i = s.i := rfl
@[simp] theorem State.acknowledgeRedraw_sp (s : State) : s.acknowledgeRedraw.sp = s.sp := rfl
@[simp] theorem State.acknowledgeRedraw_stack (s : State) : s.acknowledgeRedraw.stack = s.stack := rfl
@[simp] theorem State.acknowledgeRedraw_dt (s : State) : s.acknowledgeRedraw.dt = s.dt := rfl
@[simp] theorem State.acknowledgeRedraw_st (s : State) : s.acknowledgeRedraw.st = s.st := rfl
@[simp] theorem State.acknowledgeRedraw_fb (s : State) : s.acknowledgeRedraw.fb = s.fb := rfl
@[simp] theorem State.acknowledgeRedraw_redraw (s : State) : s.acknowledgeRedraw.redraw = false := rfl
@[simp] theorem State.acknowledgeRedraw_keys (s : State) : s.acknowledgeRedraw.keys = s.keys := rfl
@[simp] theorem State.acknowledgeRedraw_mem (s : State) : s.acknowledgeRedraw.mem = s.mem := rfl
@[simp] theorem State.acknowledgeRedraw_diag (s : State) : s.acknowledgeRedraw.diag = s.diag := rfl
@[simp] theorem State.acknowledgeRedraw_rndIn (s : State) : s.acknowledgeRedraw.rndIn = s.rndIn := rfl
@[simp] theorem State.acknowledgeRedraw_draws (s : State) : s.acknowledgeRedraw.draws = s.draws := rfl

/-! ### `supplyRnd` -/

@[simp] theorem State.supplyRnd_v (s : State) (b : Byte) : (s.supplyRnd b).v = s.v := rfl
@[simp] theorem State.supplyRnd_pc (s : State) (b : Byte) : (s.supplyRnd b).pc = s.pc := rfl
@[simp] theorem State.supplyRnd_i (s : State) (b : Byte) : (s.supplyRnd b).i = s.i := rfl
@[simp] theorem State.supplyRnd_sp (s : State) (b : Byte) : (s.supplyRnd b).sp = s.sp := rfl
@[simp] theorem State.supplyRnd_stack (s : State) (b : Byte) : (s.supplyRnd b).stack = s.stack := rfl
@[simp] theorem State.supplyRnd_dt (s : State) (b : Byte) : (s.supplyRnd b).dt = s.dt := rfl
@[simp] theorem State.supplyRnd_st (s : State) (b : Byte) : (s.supplyRnd b).st = s.st := rfl
@[simp] theorem State.supplyRnd_fb (s : State) (b : Byte) : (s.supplyRnd b).fb = s.fb := rfl
@[simp] theorem State.supplyRnd_redraw (s : State) (b : Byte) : (s.supplyRnd b).redraw = s.redraw := rfl
@[simp] theorem State.supplyRnd_keys (s : State) (b : Byte) : (s.supplyRnd b).keys = s.keys := rfl
@[simp] theorem State.supplyRnd_mem (s : State) (b : Byte) : (s.supplyRnd b).mem = s.mem := rfl
@[simp] theorem State.supplyRnd_diag (s : State) (b : Byte) : (s.supplyRnd b).diag = s.diag := rfl
@[simp] theorem State.supplyRnd_rndIn (s : State) (b : Byte) : (s.supplyRnd b).rndIn = s.rndIn ++ [b] := rfl
@[simp] theorem State.supplyRnd_draws (s : State) (b : Byte) : (s.supplyRnd b).draws = s.draws := rfl

/-! ### `memWrite` -/

@[simp] theorem State.memWrite_v (s : State) (a : Nat) (x : Byte) : (s.memWrite a x).v = s.v := rfl
@[simp] theorem State.memWrite_pc (s : State) (a : Nat) (x : Byte) : (s.memWrite a x).pc = s.pc := rfl
@[simp] theorem State.memWrite_i (s : State) (a : Nat) (x : Byte) : (s.memWrite a x).i = s.i := rfl
@[simp] theorem State.memWrite_sp (s : State) (a : Nat) (x : Byte) : (s.memWrite a x).sp = s.sp := rfl
@[simp] theorem State.memWrite_stack (s : State) (a : Nat) (x : Byte) : (s.memWrite a x).stack = s.stack := rfl
@[simp] theorem State.memWrite_dt (s : State) (a : Nat) (x : Byte) : (s.memWrite a x).dt = s.dt := rfl
@[simp] theorem State.memWrite_st (s : State) (a : Nat) (x : Byte) : (s.memWrite a x).st = s.st := rfl
@[simp] theorem State.memWrite_fb (s : State) (a : Nat) (x : Byte) : (s.memWrite a x).fb = s.fb := rfl
@[simp] theorem State.memWrite_redraw (s : State) (a : Nat) (x : Byte) : (s.memWrite a x).redraw = s.redraw := rfl
@[simp] theorem State.memWrite_keys (s : State) (a : Nat) (x : Byte) : (s.memWrite a x).keys = s.keys := rfl
@[simp] theorem State.memWrite_mem (s : State) (a : Nat) (x : Byte) : (s.memWrite a x).mem = s.mem.store a x := rfl
@[simp] theorem State.memWrite_diag (s : State) (a : Nat) (x : Byte) : (s.memWrite a x).diag = s.diag := rfl
@[simp] theorem State.memWrite_rndIn (s : State) (a : Nat) (x : Byte) : (s.memWrite a x).rndIn = s.rndIn := rfl
@[simp] theorem State.memWrite_draws (s : State) (a : Nat) (x : Byte) : (s.memWrite a x).draws = s.draws := rfl

/-! ### `memWriteList` -/

@[simp] theorem State.memWriteList_v (s : State) (a : Nat) (l : List Byte) : (s.memWriteList a l).v = s.v := rfl
@[simp] theorem State.memWriteList_pc (s : State) (a : Nat) (l : List Byte) : (s.memWriteList a l).pc = s.pc := rfl
@[simp] theorem State.memWriteList_i (s : State) (a : Nat) (l : List Byte) : (s.memWriteList a l).i = s.i := rfl
@[simp] theorem State.memWriteList_sp (s : State) (a : Nat) (l : List Byte) : (s.memWriteList a l).sp = s.sp := rfl
@[simp] theorem State.memWriteList_stack (s : State) (a : Nat) (l : List Byte) : (s.memWriteList a l).stack = s.stack := rfl
@[simp] theorem State.memWriteList_dt (s : State) (a : Nat) (l : List Byte) : (s.memWriteList a l).dt = s.dt := rfl
@[simp] theorem State.memWriteList_st (s : State) (a : Nat) (l : List Byte) : (s.memWriteList a l).st = s.st := rfl
@[simp] theorem State.memWriteList_fb (s : State) (a : Nat) (l : List Byte) : (s.memWriteList a l).fb = s.fb := rfl
@[simp] theorem State.memWriteList_redraw (s : State) (a : Nat) (l : List Byte) : (s.memWriteList a l).redraw = s.redraw := rfl
@[simp] theorem State.memWriteList_keys (s : State) (a : Nat) (l : List Byte) : (s.memWriteList a l).keys = s.keys := rfl
@[simp] theorem State.memWriteList_mem (s : State) (a : Nat) (l : List Byte) : (s.memWriteList a l).mem = s.mem.storeList a l := rfl
@[simp] theorem State.memWriteList_diag (s : State) (a : Nat) (l : List Byte) : (s.memWriteList a l).diag = s.diag := rfl
@[simp] theorem State.memWriteList_rndIn (s : State) (a : Nat) (l : List Byte) : (s.memWriteList a l).rndIn = s.rndIn := rfl
@[simp] theorem State.memWriteList_draws (s : State) (a : Nat) (l : List Byte) : (s.memWriteList a l).draws = s.draws := rfl

/-! ### `writeDT` -/

@[simp] theorem State.writeDT_v (s : State) (x : Byte) : (s.writeDT x).v = s.v := rfl
@[simp] theorem State.writeDT_pc (s : State) (x : Byte) : (s.writeDT x).pc = s.pc := rfl
@[simp] theorem State.writeDT_i (s : State) (x : Byte) : (s.writeDT x).i = s.i := rfl
@[simp] theorem State.writeDT_sp (s : State) (x : Byte) : (s.writeDT x).sp = s.sp := rfl
@[simp] theorem State.writeDT_stack (s : State) (x : Byte) : (s.writeDT x).stack = s.stack := rfl
@[simp] theorem State.writeDT_dt (s : State) (x : Byte) : (s.writeDT x).dt = x := rfl
@[simp] theorem State.writeDT_st (s : State) (x : Byte) : (s.writeDT x).st = s.st := rfl
@[simp] theorem State.writeDT_fb (s : State) (x : Byte) : (s.writeDT x).fb = s.fb := rfl
@[simp] theorem State.writeDT_redraw (s : State) (x : Byte) : (s.writeDT x).redraw = s.redraw := rfl
@[simp] theorem State.writeDT_keys (s : State) (x : Byte) : (s.writeDT x).keys = s.keys := rfl
@[simp] theorem State.writeDT_mem (s : State) (x : Byte) : (s.writeDT x).mem = s.mem := rfl
@[simp] theorem State.writeDT_diag (s : State) (x : Byte) : (s.writeDT x).diag = s.diag := rfl
@[simp] theorem State.writeDT_rndIn (s : State) (x : Byte) : (s.writeDT x).rndIn = s.rndIn := rfl
@[simp] theorem State.writeDT_draws (s : State) (x : Byte) : (s.writeDT x).draws = s.draws := rfl

/-! ### `writeST` -/

@[simp] theorem State.writeST_v (s : State) (x : Byte) : (s.writeST x).v = s.v := rfl
@[simp] theorem State.writeST_pc (s : State) (x : Byte) : (s.writeST x).pc = s.pc := rfl
@[simp] theorem State.writeST_i (s : State) (x : Byte) : (s.writeST x).i = s.i := rfl
@[simp] theorem State.writeST_sp (s : State) (x : Byte) : (s.writeST x).sp = s.sp := rfl
@[simp] theorem State.writeST_stack (s : State) (x : Byte) : (s.writeST x).stack = s.stack := rfl
@[simp] theorem State.writeST_dt (s : State) (x : Byte) : (s.writeST x).dt = s.dt := rfl
@[simp] theorem State.writeST_st (s : State) (x : Byte) : (s.writeST x).st = x := rfl
@[simp] theorem State.writeST_fb (s : State) (x : Byte) : (s.writeST x).fb = s.fb := rfl
@[simp] theorem State.writeST_redraw (s : State) (x : Byte) : (s.writeST x).redraw = s.redraw := rfl
@[simp] theorem State.writeST_keys (s : State) (x : Byte) : (s.writeST x).keys = s.keys := rfl
@[simp] theorem State.writeST_mem (s : State) (x : Byte) : (s.writeST x).mem = s.mem := rfl
@[simp] theorem State.writeST_diag (s : State) (x : Byte) : (s.writeST x).diag = s.diag := rfl
@[simp] theorem State.writeST_rndIn (s : State) (x : Byte) : (s.writeST x).rndIn = s.rndIn := rfl
@[simp] theorem State.writeST_draws (s : State) (x : Byte) : (s.writeST x).draws = s.draws := rfl

/-! ### `loadRegsThrough` -/

@[simp] theorem State.loadRegsThrough_v (s : State) (x : Reg) : 
    (s.loadRegsThrough x).v = loadRegs s.mem (s.indexAddr 0) (regsUpTo x) s.v := rfl
@[simp] theorem State.loadRegsThrough_pc (s : State) (x : Reg) : (s.loadRegsThrough x).pc = s.pc := rfl
@[simp] theorem State.loadRegsThrough_i (s : State) (x : Reg) : (s.loadRegsThrough x).i = s.i := rfl
@[simp] theorem State.loadRegsThrough_sp (s : State) (x : Reg) : (s.loadRegsThrough x).sp = s.sp := rfl
@[simp] theorem State.loadRegsThrough_stack (s : State) (x : Reg) : (s.loadRegsThrough x).stack = s.stack := rfl
@[simp] theorem State.loadRegsThrough_dt (s : State) (x : Reg) : (s.loadRegsThrough x).dt = s.dt := rfl
@[simp] theorem State.loadRegsThrough_st (s : State) (x : Reg) : (s.loadRegsThrough x).st = s.st := rfl
@[simp] theorem State.loadRegsThrough_fb (s : State) (x : Reg) : (s.loadRegsThrough x).fb = s.fb := rfl
@[simp] theorem State.loadRegsThrough_redraw (s : State) (x : Reg) : (s.loadRegsThrough x).redraw = s.redraw := rfl
@[simp] theorem State.loadRegsThrough_keys (s : State) (x : Reg) : (s.loadRegsThrough x).keys = s.keys := rfl
@[simp] theorem State.loadRegsThrough_mem (s : State) (x : Reg) : (s.loadRegsThrough x).mem = s.mem := rfl
@[simp] theorem State.loadRegsThrough_diag (s : State) (x : Reg) : (s.loadRegsThrough x).diag = s.diag := rfl
@[simp] theorem State.loadRegsThrough_rndIn (s : State) (x : Reg) : (s.loadRegsThrough x).rndIn = s.rndIn := rfl
@[simp] theorem State.loadRegsThrough_draws (s : State) (x : Reg) : (s.loadRegsThrough x).draws = s.draws := rfl

end Sys2Proof.Machine
end

