-- ==== Sys2Proof/Laws/Display.lean ====
section
/-! SUPPORT. What plotting does to each pixel, and when it collides. -/

namespace Sys2Proof.Machine

theorem onGrid_iff {x y : Nat} : onGrid x y = true ↔ x < 64 ∧ y < 32 := by
  rw [onGrid, Bool.and_eq_true, decide_eq_true_eq, decide_eq_true_eq]; rfl

theorem Framebuffer.pixel_clear (x y : Nat) : Framebuffer.clear.pixel x y = false := by
  unfold Framebuffer.pixel Framebuffer.row Framebuffer.clear
  split <;> simp

theorem Framebuffer.pixel_eq_false_of_off (fb : Framebuffer) {x y : Nat} (h : onGrid x y = false) :
    fb.pixel x y = false := by
  unfold Framebuffer.pixel Framebuffer.row
  split
  · apply BitVec.getLsbD_of_ge
    have := mt (onGrid_iff (x := x) (y := y)).2 (by simp [h])
    omega
  · simp

/-- A toggle flips its own pixel and no other. -/
theorem Framebuffer.pixel_toggle (fb : Framebuffer) (x y a b : Nat) (h : onGrid x y = true) :
    (fb.toggle x y).pixel a b = (fb.pixel a b ^^ decide (a = x ∧ b = y)) := by
  obtain ⟨hx, hy⟩ : x < 64 ∧ y < 32 := onGrid_iff.1 h
  unfold Framebuffer.toggle Framebuffer.pixel Framebuffer.row
  rw [dif_pos hy]
  by_cases hb : b < 32
  · simp only [hb, dif_pos, Vector.getElem_set]
    by_cases hyb : y = b
    · subst hyb
      simp only [if_true, BitVec.getLsbD_xor, BitVec.getLsbD_twoPow, and_true]
      by_cases ha : a = x
      · subst ha; simp [hx]
      · have : ¬ (x = a) := fun e => ha e.symm
        simp [ha, this]
    · have : ¬ (b = y) := fun e => hyb e.symm
      simp [hyb, this]
  · have : ¬ (b = y) := by omega
    simp [hb, this]

theorem plotBit_pixel (x y a b : Nat) (bit : Bool) (d : Framebuffer × Bool) :
    (plotBit x y bit d).1.pixel a b = (d.1.pixel a b ^^ (bit && onGrid a b && decide (a = x ∧ b = y))) := by
  unfold plotBit
  split <;> rename_i h
  · rw [Bool.and_eq_true] at h
    rw [Framebuffer.pixel_toggle _ _ _ _ _ h.2]
    by_cases hab : a = x ∧ b = y
    · obtain ⟨rfl, rfl⟩ := hab; simp [h.1, h.2]
    · simp [hab]
  · by_cases hab : a = x ∧ b = y
    · obtain ⟨rfl, rfl⟩ := hab
      rw [Bool.not_eq_true] at h; simp [h]
    · simp [hab]

theorem plotBit_collision (x y : Nat) (bit : Bool) (d : Framebuffer × Bool) :
    (plotBit x y bit d).2 = (d.2 || (bit && onGrid x y && d.1.pixel x y)) := by
  unfold plotBit
  split <;> simp_all

/-! ## A list of plots -/

/-- The bits a sprite plots, each with its column and row, in the order of R181's loops. -/
def spritePlots (x : Nat) : Nat → List Byte → List (Nat × Nat × Bool)
  | _, [] => []
  | y, row :: rows => (List.range 8).map (fun c => (x + c, y, row.getLsbD (7 - c))) ++ spritePlots x (y + 1) rows

/-- The plots done one after another. -/
def plotAll (ps : List (Nat × Nat × Bool)) (d : Framebuffer × Bool) : Framebuffer × Bool :=
  ps.foldl (fun d p => plotBit p.1 p.2.1 p.2.2 d) d

theorem plotSprite_eq_plotAll (x y : Nat) (rows : List Byte) (d : Framebuffer × Bool) :
    plotSprite x y rows d = plotAll (spritePlots x y rows) d := by
  induction rows generalizing y d with
  | nil => rfl
  | cons row rows ih => simp only [plotSprite, ih, plotAll, spritePlots, List.foldl_append, List.foldl_map, plotRow]

theorem mem_spritePlots {x y : Nat} {rows : List Byte} {p : Nat × Nat × Bool} :
    p ∈ spritePlots x y rows ↔
      ∃ r, ∃ h : r < rows.length, ∃ c < 8, p = (x + c, y + r, rows[r].getLsbD (7 - c)) := by
  induction rows generalizing y with
  | nil => simp [spritePlots]
  | cons row rows ih =>
    simp only [spritePlots, List.mem_append, List.mem_map, List.mem_range, ih]
    constructor
    · rintro (⟨c, hc, rfl⟩ | ⟨r, hr, c, hc, rfl⟩)
      · exact ⟨0, by simp, c, hc, rfl⟩
      · exact ⟨r + 1, by simpa using hr, c, hc, by simp; omega⟩
    · rintro ⟨r, hr, c, hc, rfl⟩
      cases r with
      | zero => exact .inl ⟨c, hc, rfl⟩
      | succ r => exact .inr ⟨r, by simpa using hr, c, hc, by simp; omega⟩

/-- No two plots of a sprite are at one place: "each on-grid pixel is plotted at most once" (R182). -/
theorem spritePlots_distinct (x y : Nat) (rows : List Byte) :
    (spritePlots x y rows).Pairwise fun p q => (p.1, p.2.1) ≠ (q.1, q.2.1) := by
  induction rows generalizing y with
  | nil => simp [spritePlots]
  | cons row rows ih =>
    refine List.pairwise_append.2 ⟨?_, ih (y + 1), fun p hp q hq => ?_⟩
    · rw [List.pairwise_map]
      refine (List.pairwise_lt_range (n := 8)).imp fun h => ?_
      simp; omega
    · obtain ⟨c, -, rfl⟩ := List.mem_map.1 hp
      obtain ⟨r, -, c', -, rfl⟩ := mem_spritePlots.1 hq
      simp; omega

/-- Plots at distinct places flip exactly the on-grid places where a 1 is plotted. -/
theorem plotAll_pixel (ps : List (Nat × Nat × Bool)) (d : Framebuffer × Bool) (a b : Nat)
    (h : ps.Pairwise fun p q => (p.1, p.2.1) ≠ (q.1, q.2.1)) :
    (plotAll ps d).1.pixel a b = (d.1.pixel a b ^^ (onGrid a b && decide ((a, b, true) ∈ ps))) := by
  induction ps generalizing d with
  | nil => simp [plotAll]
  | cons p ps ih =>
    obtain ⟨px, py, bit⟩ := p
    rw [List.pairwise_cons] at h
    have := ih (plotBit px py bit d) h.2
    rw [plotBit_pixel] at this
    refine this.trans ?_
    by_cases hab : a = px ∧ b = py
    · obtain ⟨rfl, rfl⟩ := hab
      have hn : (a, b, true) ∉ ps := fun hm => h.1 _ hm rfl
      cases bit <;> cases onGrid a b <;> simp [hn]
    · have hne : (a, b, true) ≠ (px, py, bit) := fun e => by
        simp only [Prod.mk.injEq] at e; exact hab ⟨e.1, e.2.1⟩
      simp [hab, hne]

/-- Plots at distinct places collide when some on-grid place where a 1 is plotted was lit before them all. -/
theorem plotAll_collision (ps : List (Nat × Nat × Bool)) (d : Framebuffer × Bool)
    (h : ps.Pairwise fun p q => (p.1, p.2.1) ≠ (q.1, q.2.1)) :
    (plotAll ps d).2 = true ↔
      d.2 = true ∨ ∃ a b, (a, b, true) ∈ ps ∧ onGrid a b = true ∧ d.1.pixel a b = true := by
  induction ps generalizing d with
  | nil => simp [plotAll]
  | cons p ps ih =>
    obtain ⟨px, py, bit⟩ := p
    rw [List.pairwise_cons] at h
    refine (ih (plotBit px py bit d) h.2).trans ?_
    rw [plotBit_collision]
    have hp : ∀ a b, (a, b, true) ∈ ps → (plotBit px py bit d).1.pixel a b = d.1.pixel a b := by
      intro a b hm
      have hab : ¬ (a = px ∧ b = py) := by rintro ⟨rfl, rfl⟩; exact h.1 _ hm rfl
      rw [plotBit_pixel]; simp [hab]
    constructor
    · rintro (hc | ⟨a, b, hm, hg, hpx⟩)
      · rw [Bool.or_eq_true, Bool.and_eq_true, Bool.and_eq_true] at hc
        rcases hc with hc | ⟨⟨rfl, hg⟩, hpx⟩
        · exact .inl hc
        · exact .inr ⟨px, py, by simp, hg, hpx⟩
      · exact .inr ⟨a, b, by simp [hm], hg, hp a b hm ▸ hpx⟩
    · rintro (hc | ⟨a, b, hm, hg, hpx⟩)
      · exact .inl (by simp [hc])
      · rcases List.mem_cons.1 hm with e | hm
        · simp only [Prod.mk.injEq] at e
          obtain ⟨rfl, rfl, rfl⟩ := e
          exact .inl (by simp [hg, hpx])
        · exact .inr ⟨a, b, hm, hg, (hp a b hm).symm ▸ hpx⟩

end Sys2Proof.Machine
end

