-- ==== Sys2Proof/Laws/Memory.lean ====
section
/-! SUPPORT. The laws of memory: a read after a write, that every operation keeps the canonical form and the glyph ROM,
and what a run of stores leaves. -/

namespace Sys2Proof.Machine

/-! ## One cell -/

theorem Memory.read_erase (m : Memory) (a b : Nat) :
    (m.erase a).read b = if a = b then resetByte b else m.read b := by
  induction m with
  | nil => simp [Memory.erase, Memory.read]
  | cons c m ih =>
    obtain ⟨c, v⟩ := c
    simp only [Memory.erase]
    split <;> rename_i h
    · subst h; rw [ih]; simp only [Memory.read]
      split <;> simp_all
    · simp only [Memory.read, ih]; split
      · next hc => subst hc; simp [Ne.symm h]
      · rfl

theorem Memory.read_insert (m : Memory) (a b : Nat) (v : Byte) (h : ∀ c ∈ m, c.1 ≠ a) :
    (m.insert a v).read b = if a = b then v else m.read b := by
  induction m with
  | nil => simp [Memory.insert, Memory.read]
  | cons c m ih =>
    obtain ⟨c, u⟩ := c
    simp only [Memory.insert]
    split <;> rename_i hc
    · simp [Memory.read]
    · have hca : c ≠ a := h (c, u) (by simp)
      simp only [Memory.read, ih fun d hd => h d (by simp [hd])]
      split
      · next hcb => subst hcb; simp [Ne.symm hca]
      · rfl

theorem Memory.mem_erase {m : Memory} {a : Nat} {c : Host.Cell} (h : c ∈ m.erase a) : c ∈ m ∧ c.1 ≠ a := by
  induction m with
  | nil => simp [Memory.erase] at h
  | cons d m ih =>
    obtain ⟨b, v⟩ := d
    simp only [Memory.erase] at h
    split at h
    · exact ⟨List.mem_cons_of_mem _ (ih h).1, (ih h).2⟩
    · rcases List.mem_cons.1 h with rfl | h'
      · exact ⟨List.mem_cons_self, by assumption⟩
      · exact ⟨List.mem_cons_of_mem _ (ih h').1, (ih h').2⟩

theorem Memory.mem_insert {m : Memory} {a : Nat} {v : Byte} {c : Host.Cell} (h : c ∈ m.insert a v) :
    c = (a, v) ∨ c ∈ m := by
  induction m with
  | nil => simpa [Memory.insert] using h
  | cons d m ih =>
    obtain ⟨b, u⟩ := d
    simp only [Memory.insert] at h
    split at h
    · simpa using h
    · rcases List.mem_cons.1 h with rfl | h'
      · exact .inr List.mem_cons_self
      · exact (ih h').imp_right (List.mem_cons_of_mem _)

/-- A read after a write to one cell: the byte written there, the old byte elsewhere; on any list, canonical or not. -/
theorem Memory.read_write (m : Memory) (a b : Nat) (v : Byte) :
    (m.write a v).read b = if a = b then v else m.read b := by
  unfold Memory.write
  split <;> rename_i h
  · rw [Memory.read_erase]; split
    · next hab => subst hab; exact h.symm
    · rfl
  · rw [Memory.read_insert _ _ _ _ fun c hc => (Memory.mem_erase hc).2, Memory.read_erase]
    split <;> rfl

/-! ## The canonical form -/

theorem Memory.erase_sorted {m : Memory} (a : Nat) (h : m.Pairwise fun c d => c.1 < d.1) :
    (m.erase a).Pairwise fun c d => c.1 < d.1 := by
  induction m with
  | nil => simp [Memory.erase]
  | cons c m ih =>
    obtain ⟨b, v⟩ := c
    rw [List.pairwise_cons] at h
    simp only [Memory.erase]
    split
    · exact ih h.2
    · exact List.pairwise_cons.2 ⟨fun d hd => h.1 d (Memory.mem_erase hd).1, ih h.2⟩

theorem Memory.insert_sorted {m : Memory} (a : Nat) (v : Byte) (h : m.Pairwise fun c d => c.1 < d.1)
    (ha : ∀ c ∈ m, c.1 ≠ a) : (m.insert a v).Pairwise fun c d => c.1 < d.1 := by
  induction m with
  | nil => simp [Memory.insert]
  | cons c m ih =>
    obtain ⟨b, u⟩ := c
    rw [List.pairwise_cons] at h
    have hb : b ≠ a := ha (b, u) (by simp)
    simp only [Memory.insert]
    split <;> rename_i hab
    · refine List.pairwise_cons.2 ⟨fun d hd => ?_, List.pairwise_cons.2 h⟩
      rcases List.mem_cons.1 hd with rfl | hd
      · exact hab
      · exact hab.trans (h.1 d hd)
    · refine List.pairwise_cons.2 ⟨fun d hd => ?_, ih h.2 fun d hd => ha d (by simp [hd])⟩
      rcases Memory.mem_insert hd with rfl | hd
      · simp only; omega
      · exact h.1 d hd

/-- A write inside memory keeps the canonical form. -/
theorem Memory.write_wf {m : Memory} {a : Nat} {v : Byte} (ha : a < Config.memSize) (h : m.wf) : (m.write a v).wf := by
  unfold Memory.write
  split <;> rename_i hv
  · exact ⟨Memory.erase_sorted a h.1, fun c hc => h.2 c (Memory.mem_erase hc).1⟩
  · refine ⟨Memory.insert_sorted a v (Memory.erase_sorted a h.1) fun c hc => (Memory.mem_erase hc).2, fun c hc => ?_⟩
    rcases Memory.mem_insert hc with rfl | hc
    · exact ⟨ha, hv⟩
    · exact h.2 c (Memory.mem_erase hc).1

/-- A write above the ROM keeps the ROM. -/
theorem Memory.write_romIntact {m : Memory} {a : Nat} {v : Byte} (ha : Config.fontSize ≤ a) (h : m.romIntact) :
    (m.write a v).romIntact := by
  intro b hb
  rw [Memory.read_write, if_neg (by omega)]
  exact h b hb

theorem Memory.read_writeList (m : Memory) (a b : Nat) (l : List Byte) :
    (m.writeList a l).read b = if h : a ≤ b ∧ b < a + l.length then l[b - a]'(by omega) else m.read b := by
  induction l generalizing m a with
  | nil => simp [Memory.writeList]
  | cons x l ih =>
    simp only [Memory.writeList, ih, Memory.read_write, List.length_cons]
    by_cases hab : a = b
    · subst hab; simp
    · by_cases h : a + 1 ≤ b ∧ b < a + 1 + l.length
      · rw [dif_pos h, dif_pos (by omega)]
        obtain ⟨k, rfl⟩ : ∃ k, b = a + 1 + k := ⟨b - (a + 1), by omega⟩
        simp [show a + 1 + k - a = k + 1 by omega]
      · rw [dif_neg h, dif_neg (by omega), if_neg hab]

theorem Memory.writeList_wf {m : Memory} {a : Nat} {l : List Byte} (ha : a + l.length ≤ Config.memSize) (h : m.wf) :
    (m.writeList a l).wf := by
  induction l generalizing m a with
  | nil => exact h
  | cons x l ih =>
    simp only [List.length_cons] at ha
    exact ih (by omega) (Memory.write_wf (by omega) h)

theorem Memory.writeList_romIntact {m : Memory} {a : Nat} {l : List Byte} (ha : Config.fontSize ≤ a)
    (h : m.romIntact) : (m.writeList a l).romIntact := by
  induction l generalizing m a with
  | nil => exact h
  | cons x l ih => exact ih (by omega) (Memory.write_romIntact ha h)

/-! ## MemRead and MemWrite -/

theorem addr12_lt (a : Nat) : addr12 a < Config.memSize := Nat.mod_lt _ (by decide)

/-- MemRead after MemWrite (R62, R63): the byte written, unless the cell is another or lies in the ROM. -/
theorem Memory.load_store (m : Memory) (a b : Nat) (x : Byte) :
    (m.store a x).load b = if addr12 a = addr12 b ∧ Config.fontSize ≤ addr12 a then x else m.load b := by
  unfold Memory.store Memory.load
  by_cases h : addr12 a < Config.fontSize
  · rw [if_pos h, if_neg (by omega)]
  · rw [if_neg h, Memory.read_write]
    by_cases hab : addr12 a = addr12 b
    · rw [if_pos hab, if_pos ⟨hab, by omega⟩]
    · rw [if_neg hab, if_neg (by tauto)]

/-- A store keeps the canonical form. -/
theorem Memory.store_wf {m : Memory} (a : Nat) (x : Byte) (h : m.wf) : (m.store a x).wf := by
  unfold Memory.store
  split
  · exact h
  · exact Memory.write_wf (addr12_lt a) h

/-- A store keeps the ROM. -/
theorem Memory.store_romIntact {m : Memory} (a : Nat) (x : Byte) (h : m.romIntact) : (m.store a x).romIntact := by
  unfold Memory.store
  split
  · exact h
  · exact Memory.write_romIntact (by omega) h

theorem Memory.storeList_wf {m : Memory} (a : Nat) (l : List Byte) (h : m.wf) : (m.storeList a l).wf := by
  induction l generalizing m a with
  | nil => exact h
  | cons x l ih => exact ih _ (Memory.store_wf a x h)

theorem Memory.storeList_romIntact {m : Memory} (a : Nat) (l : List Byte) (h : m.romIntact) :
    (m.storeList a l).romIntact := by
  induction l generalizing m a with
  | nil => exact h
  | cons x l ih => exact ih _ (Memory.store_romIntact a x h)

/-- Bytes stored from `a` on leave every cell they do not cover, and every ROM cell, as it was. -/
theorem Memory.load_storeList_of_not_covered (m : Memory) (a b : Nat) (l : List Byte)
    (h : addr12 b < Config.fontSize ∨ ∀ k < l.length, addr12 (a + k) ≠ addr12 b) :
    (m.storeList a l).load b = m.load b := by
  induction l generalizing m a with
  | nil => rfl
  | cons x l ih =>
    simp only [Memory.storeList]
    rw [ih, Memory.load_store, if_neg]
    · rcases h with h | h
      · omega
      · have := h 0 (by simp); simp_all
    · refine h.imp_right fun h k hk => ?_
      have := h (k + 1) (by simpa using hk)
      rwa [show a + (k + 1) = a + 1 + k by omega] at this

/-- Bytes stored from `a` on, no more than memory has cells: a cell they cover, outside the ROM, reads as its byte. -/
theorem Memory.load_storeList_of_covered (m : Memory) (a b : Nat) (l : List Byte) (hl : l.length ≤ Config.memSize)
    (k : Nat) (hk : k < l.length) (hb : addr12 (a + k) = addr12 b) (hrom : Config.fontSize ≤ addr12 b) :
    (m.storeList a l).load b = l[k] := by
  induction l generalizing m a k with
  | nil => simp at hk
  | cons x l ih =>
    simp only [Memory.storeList]
    simp only [List.length_cons, Config.memSize] at hl hk
    cases k with
    | zero =>
      have hfar : ∀ j < l.length, addr12 (a + 1 + j) ≠ addr12 b := by
        intro j hj
        simp only [addr12, Config.memSize] at hb ⊢
        omega
      rw [Memory.load_storeList_of_not_covered _ _ _ _ (.inr hfar), Memory.load_store, if_pos]
      · simp
      · simp only [Nat.add_zero] at hb; exact ⟨hb, by omega⟩
    | succ k =>
      have := ih (m.store a x) (a + 1) (by simp only [Config.memSize]; omega) k (by omega)
        (by rw [← hb]; congr 1; omega)
      simpa using this

@[simp] theorem Memory.loadList_length (m : Memory) (a n : Nat) : (m.loadList a n).length = n := by
  induction n generalizing a with
  | zero => rfl
  | succ n ih => simp [Memory.loadList, ih]

theorem Memory.loadList_getElem (m : Memory) (a n k : Nat) (hk : k < (m.loadList a n).length) :
    (m.loadList a n)[k] = m.load (a + k) := by
  induction n generalizing a k with
  | zero => simp [Memory.loadList] at hk
  | succ n ih =>
    cases k with
    | zero => rfl
    | succ k =>
      simp only [Memory.loadList, List.getElem_cons_succ]
      rw [ih]; congr 1; omega

/-- A store keeps the invariant. -/
theorem State.memWriteList_inv {s : State} (a : Nat) (l : List Byte) (h : s.Inv) : (s.memWriteList a l).Inv :=
  ⟨Memory.storeList_wf a l h.1, Memory.storeList_romIntact a l h.2⟩

end Sys2Proof.Machine
end

