-- ==== Sys2Proof/Laws/Ops.lean ====
section
/-! SUPPORT. What each shared operation over registers, stack, memory lists and the step's frame can do, said once. -/

namespace Sys2Proof.Machine

/-! ## Registers and PC -/

/-- A register after a write. -/
theorem State.readV_writeV (s : State) (r q : Reg) (x : Byte) :
    (s.writeV r x).readV q = if r = q then x else s.readV q := by
  simp only [State.readV, State.writeV, Fin.getElem_fin, Vector.getElem_set, Fin.val_inj]

@[simp] theorem State.readV_writeV_self (s : State) (r : Reg) (x : Byte) : (s.writeV r x).readV r = x := by
  rw [State.readV_writeV, if_pos rfl]

@[simp] theorem State.readV_writeI (s : State) (x : Word) (q : Reg) : (s.writeI x).readV q = s.readV q := rfl

@[simp] theorem State.readV_jumpTo (s : State) (x : Word) (q : Reg) : (s.jumpTo x).readV q = s.readV q := rfl

@[simp] theorem State.readV_advance2 (s : State) (q : Reg) : s.advance2.readV q = s.readV q := rfl

@[simp] theorem State.readV_advance4 (s : State) (q : Reg) : s.advance4.readV q = s.readV q := rfl

@[simp] theorem State.readV_showScreen (s : State) (f : Framebuffer) (q : Reg) :
    (s.showScreen f).readV q = s.readV q := rfl

@[simp] theorem State.readV_raiseDiag (s : State) (c : DiagCode) (w : Word) (q : Reg) :
    (s.raiseDiag c w).readV q = s.readV q := rfl

@[simp] theorem State.readV_beginStep (s : State) (q : Reg) : s.beginStep.readV q = s.readV q := rfl

@[simp] theorem State.readV_endStep (s : State) (q : Reg) : s.endStep.readV q = s.readV q := rfl

/-- A skip is a jump to PC + 4 or PC + 2 (R133). -/
theorem State.skipIf_eq (s : State) (c : Bool) :
    s.skipIf c = s.jumpTo (if c then s.pc + 4#16 else s.pc + 2#16) := by
  unfold State.skipIf; split <;> rfl

/-! ## The call stack -/

/-- A push on a stack that is not full. -/
theorem State.push_of_lt (s : State) (x : Word) (h : s.sp.val < 16) :
    s.push x = some { s with stack := s.stack.set s.sp.val x h, sp := ⟨s.sp.val + 1, by omega⟩ } := dif_pos h

/-- A push on a full stack. -/
theorem State.push_of_full (s : State) (x : Word) (h : s.sp.val = 16) : s.push x = none := dif_neg (by omega)

/-- A pop of a stack that is not empty. -/
theorem State.pop_of_pos (s : State) (h : 0 < s.sp.val) :
    s.pop = some (s.stack[s.sp.val - 1], { s with sp := ⟨s.sp.val - 1, by omega⟩ }) := dif_pos h

/-- A pop of an empty stack. -/
theorem State.pop_of_empty (s : State) (h : s.sp.val = 0) : s.pop = none := dif_neg (by omega)

/-! ## Register ranges -/

theorem mem_regsUpTo {x r : Reg} : r ∈ regsUpTo x ↔ r ≤ x := by
  simp only [regsUpTo, List.mem_take_iff_getElem, List.length_finRange, List.getElem_finRange]
  constructor
  · rintro ⟨k, hk, rfl⟩; rw [Fin.le_def]; simp; omega
  · intro h; exact ⟨r.val, by rw [Fin.le_def] at h; omega, rfl⟩

@[simp] theorem regsUpTo_length (x : Reg) : (regsUpTo x).length = x.val + 1 := by
  simp [regsUpTo]

/-- The bytes of FX55 are V[0] to V[X]. -/
@[simp] theorem State.regsThrough_length (s : State) (x : Reg) : (s.regsThrough x).length = x.val + 1 := by
  simp [State.regsThrough]

theorem State.regsThrough_getElem (s : State) (x k : Reg) (h : k ≤ x) :
    (s.regsThrough x)[k.val]'(by rw [Fin.le_def] at h; simp; omega) = s.readV k := by
  simp [State.regsThrough, regsUpTo]

theorem loadRegs_getElem (m : Memory) (base : Nat) (ks : List Reg) (v : Vector Byte 16) (r : Reg) :
    (loadRegs m base ks v)[r] = if r ∈ ks then m.load (base + r.val) else v[r] := by
  induction ks generalizing v with
  | nil => simp [loadRegs]
  | cons k ks ih =>
    rw [loadRegs, ih]
    by_cases hr : r ∈ ks
    · simp [hr]
    · by_cases hk : k = r
      · subst hk; simp [hr]
      · have : ¬ (k.val = r.val) := fun e => hk (Fin.ext e)
        simp [hr, Ne.symm hk, this]

/-- The registers after FX65's loads. -/
theorem State.readV_loadRegsThrough (s : State) (x r : Reg) :
    (s.loadRegsThrough x).readV r = if r ≤ x then s.memRead (s.indexAddr r.val) else s.readV r := by
  have := loadRegs_getElem s.mem (s.indexAddr 0) (regsUpTo x) s.v r
  simp only [mem_regsUpTo] at this
  exact this

/-! ## Memory seen from other operations -/

/-- MemRead depends on memory only. -/
theorem State.memRead_congr {s t : State} (h : t.mem = s.mem) (a : Nat) : t.memRead a = s.memRead a := by
  simp [State.memRead, h]

/-- Fetch depends on PC and memory only. -/
theorem State.fetch_congr {s t : State} (hp : t.pc = s.pc) (h : t.mem = s.mem) : t.fetch = s.fetch := by
  simp [State.fetch, State.memRead, h, hp]

/-- The lowest pressed key depends on the keypad only. -/
theorem State.lowestKey_congr {s t : State} (h : t.keys = s.keys) : t.lowestKey = s.lowestKey := by
  simp [State.lowestKey, State.keyDown, h]

/-- The lowest pressed key is pressed, and no lower one is (R203). -/
theorem State.lowestKey_some {s : State} {k : Fin 16} (h : s.lowestKey = some k) :
    s.keyDown k = true ∧ ∀ j < k, s.keyDown j = false := by
  unfold State.lowestKey at h
  rw [List.find?_eq_some_iff_append] at h
  obtain ⟨hk, as, bs, hl, hall⟩ := h
  refine ⟨hk, fun j hj => ?_⟩
  have hs : (as ++ k :: bs).Pairwise (· < ·) := hl ▸ List.pairwise_lt_finRange 16
  have hm : j ∈ as ++ k :: bs := hl ▸ List.mem_finRange j
  rcases List.mem_append.1 hm with hm | hm
  · simpa using hall j hm
  · rcases List.mem_cons.1 hm with rfl | hm
    · exact absurd hj (lt_irrefl _)
    · exact absurd ((List.pairwise_cons.1 (List.pairwise_append.1 hs).2.1).1 j hm) (not_lt.2 hj.le)

theorem State.lowestKey_none {s : State} (h : s.lowestKey = none) (k : Fin 16) : s.keyDown k = false := by
  unfold State.lowestKey at h
  rw [List.find?_eq_none] at h
  simpa using h k (List.mem_finRange k)

end Sys2Proof.Machine
end

