-- ==== Sys2Proof/Laws/PerInstr.lean ====
section
/-! SUPPORT. Statements made instruction by instruction (LAWS.json): the decoder reads back what the encoder writes. -/

namespace Sys2Proof.Laws

/-- Family RoundTrip: decoding the instruction's word gives the instruction. -/
def RoundTrip.Statement (i : Instr) : Prop := decodeWord (encode i) = .ok i

theorem RoundTrip.cls : RoundTrip.Statement .cls := by
  unfold RoundTrip.Statement; rfl
theorem RoundTrip.ret : RoundTrip.Statement .ret := by
  unfold RoundTrip.Statement; rfl
theorem RoundTrip.jp (nnn : Addr) : RoundTrip.Statement (.jp nnn) := by
  simp [RoundTrip.Statement, encode, decodeWord]
theorem RoundTrip.call (nnn : Addr) : RoundTrip.Statement (.call nnn) := by
  simp [RoundTrip.Statement, encode, decodeWord]
theorem RoundTrip.seImm (x : Reg) (nn : Byte) : RoundTrip.Statement (.seImm x nn) := by
  simp [RoundTrip.Statement, encode, decodeWord]
theorem RoundTrip.sneImm (x : Reg) (nn : Byte) : RoundTrip.Statement (.sneImm x nn) := by
  simp [RoundTrip.Statement, encode, decodeWord]
theorem RoundTrip.seReg (x y : Reg) : RoundTrip.Statement (.seReg x y) := by
  simp [RoundTrip.Statement, encode, decodeWord]
theorem RoundTrip.ldImm (x : Reg) (nn : Byte) : RoundTrip.Statement (.ldImm x nn) := by
  simp [RoundTrip.Statement, encode, decodeWord]
theorem RoundTrip.addImm (x : Reg) (nn : Byte) : RoundTrip.Statement (.addImm x nn) := by
  simp [RoundTrip.Statement, encode, decodeWord]
theorem RoundTrip.ldReg (x y : Reg) : RoundTrip.Statement (.ldReg x y) := by
  simp [RoundTrip.Statement, encode, decodeWord, decode8]
theorem RoundTrip.orReg (x y : Reg) : RoundTrip.Statement (.orReg x y) := by
  simp [RoundTrip.Statement, encode, decodeWord, decode8]
theorem RoundTrip.andReg (x y : Reg) : RoundTrip.Statement (.andReg x y) := by
  simp [RoundTrip.Statement, encode, decodeWord, decode8]
theorem RoundTrip.xorReg (x y : Reg) : RoundTrip.Statement (.xorReg x y) := by
  simp [RoundTrip.Statement, encode, decodeWord, decode8]
theorem RoundTrip.addReg (x y : Reg) : RoundTrip.Statement (.addReg x y) := by
  simp [RoundTrip.Statement, encode, decodeWord, decode8]
theorem RoundTrip.subReg (x y : Reg) : RoundTrip.Statement (.subReg x y) := by
  simp [RoundTrip.Statement, encode, decodeWord, decode8]
theorem RoundTrip.shr (x y : Reg) : RoundTrip.Statement (.shr x y) := by
  simp [RoundTrip.Statement, encode, decodeWord, decode8]
theorem RoundTrip.subn (x y : Reg) : RoundTrip.Statement (.subn x y) := by
  simp [RoundTrip.Statement, encode, decodeWord, decode8]
theorem RoundTrip.shl (x y : Reg) : RoundTrip.Statement (.shl x y) := by
  simp [RoundTrip.Statement, encode, decodeWord, decode8]
theorem RoundTrip.sneReg (x y : Reg) : RoundTrip.Statement (.sneReg x y) := by
  simp [RoundTrip.Statement, encode, decodeWord]
theorem RoundTrip.ldI (nnn : Addr) : RoundTrip.Statement (.ldI nnn) := by
  simp [RoundTrip.Statement, encode, decodeWord]
theorem RoundTrip.jpV0 (nnn : Addr) : RoundTrip.Statement (.jpV0 nnn) := by
  simp [RoundTrip.Statement, encode, decodeWord]
theorem RoundTrip.rnd (x : Reg) (nn : Byte) : RoundTrip.Statement (.rnd x nn) := by
  simp [RoundTrip.Statement, encode, decodeWord]
theorem RoundTrip.drw (x y : Reg) (n : Nibble) : RoundTrip.Statement (.drw x y n) := by
  simp [RoundTrip.Statement, encode, decodeWord]
theorem RoundTrip.skp (x : Reg) : RoundTrip.Statement (.skp x) := by
  simp [RoundTrip.Statement, encode, decodeWord, decodeE]
theorem RoundTrip.sknp (x : Reg) : RoundTrip.Statement (.sknp x) := by
  simp [RoundTrip.Statement, encode, decodeWord, decodeE]
theorem RoundTrip.ldVxDt (x : Reg) : RoundTrip.Statement (.ldVxDt x) := by
  simp [RoundTrip.Statement, encode, decodeWord, decodeF]
theorem RoundTrip.ldVxK (x : Reg) : RoundTrip.Statement (.ldVxK x) := by
  simp [RoundTrip.Statement, encode, decodeWord, decodeF]
theorem RoundTrip.ldDtVx (x : Reg) : RoundTrip.Statement (.ldDtVx x) := by
  simp [RoundTrip.Statement, encode, decodeWord, decodeF]
theorem RoundTrip.ldStVx (x : Reg) : RoundTrip.Statement (.ldStVx x) := by
  simp [RoundTrip.Statement, encode, decodeWord, decodeF]
theorem RoundTrip.addI (x : Reg) : RoundTrip.Statement (.addI x) := by
  simp [RoundTrip.Statement, encode, decodeWord, decodeF]
theorem RoundTrip.ldF (x : Reg) : RoundTrip.Statement (.ldF x) := by
  simp [RoundTrip.Statement, encode, decodeWord, decodeF]
theorem RoundTrip.ldB (x : Reg) : RoundTrip.Statement (.ldB x) := by
  simp [RoundTrip.Statement, encode, decodeWord, decodeF]
theorem RoundTrip.ldMemVx (x : Reg) : RoundTrip.Statement (.ldMemVx x) := by
  simp [RoundTrip.Statement, encode, decodeWord, decodeF]
theorem RoundTrip.ldVxMem (x : Reg) : RoundTrip.Statement (.ldVxMem x) := by
  simp [RoundTrip.Statement, encode, decodeWord, decodeF]

end Sys2Proof.Laws
end

