-- ==== Sys2Proof/Laws/Step.lean ====
section
/-! SUPPORT. What a step can do, said once: later proofs cite these and do not unfold `step`. -/

namespace Sys2Proof.Machine

/-- A step on a known word whose instruction completes. -/
theorem step_of_decoded {s t : State} {i : Instr} (hd : decodeWord s.fetch = .ok i)
    (ht : exec i s.beginStep = .next t) : step s = .next t.endStep := by
  simp only [step, hd, ht]

/-- A step on an unknown word. -/
theorem step_of_unknown {s : State} {u : UnknownWord} (hd : decodeWord s.fetch = .error u) :
    step s = .next (execUnknown s.fetch s.beginStep).endStep := by
  simp only [step, hd]

/-- If a step answers a next state, it ran the decoded instruction and then ended the step, or diagnosed an unknown word
and then ended the step. -/
theorem step_cases {s u : State} (h : step s = .next u) :
    (∃ i t, decodeWord s.fetch = .ok i ∧ exec i s.beginStep = .next t ∧ u = t.endStep) ∨
    (∃ e, decodeWord s.fetch = .error e ∧ u = (execUnknown s.fetch s.beginStep).endStep) := by
  cases hd : decodeWord s.fetch with
  | ok i =>
    simp only [step, hd] at h
    split at h
    · next t ht => cases h; exact .inl ⟨i, t, rfl, ht, rfl⟩
    · cases h
    · cases h
  | error e => rw [step_of_unknown hd] at h; cases h; exact .inr ⟨e, rfl, rfl⟩

end Sys2Proof.Machine
end

