-- ==== Sys2Proof/Laws/WellFormed.lean ====
section
/-! SUPPORT. Assembler lines and instructions. -/

namespace Sys2Proof

@[simp] theorem OperandKind.reg_lt (x : Reg) : x.val < OperandKind.reg.bound := x.isLt

@[simp] theorem OperandKind.nibble_lt (n : Nibble) : n.toNat < OperandKind.nibble.bound := n.isLt

@[simp] theorem OperandKind.byte_lt (b : Byte) : b.toNat < OperandKind.byte.bound := b.isLt

@[simp] theorem OperandKind.addr_lt (a : Addr) : a.toNat < OperandKind.addr.bound := a.isLt

/-- The operands fit one by one. -/
theorem operandsFit_cons (k : OperandKind) (ks : List OperandKind) (n : Nat) (ns : List Nat) :
    operandsFit (k :: ks) (n :: ns) = true ↔ n < k.bound ∧ operandsFit ks ns = true := by
  simp [operandsFit]

/-- Every instruction is well-formed: its operand types carry the bounds. -/
theorem Instr.wellFormed_all (i : Instr) : i.wellFormed = true := by
  cases i <;> simp [Instr.wellFormed, Instr.asmLine, AsmLine.wellFormed, operandKinds, operandsFit]

@[simp] theorem regOfNat_val (x : Reg) : regOfNat x.val = x := by
  apply Fin.ext; simp [regOfNat]

theorem regOfNat_toNat (n : Nat) : (regOfNat n).val = n % 16 := by simp [regOfNat]

end Sys2Proof
end

