-- ==== Sys2Proof/Tests/Slice0.lean ====
section
/-! SUPPORT. The model's own tests: ill-formed lines refused, words decoded as the spec's patterns say, one step of each
instruction on a vector of spec/95_test_vectors.md (named in each comment), and a witness for every statement's
hypotheses. Every expected value is the spec's. -/

namespace Sys2Proof.Tests

open Sys2Proof Sys2Proof.Machine

/-! ## A small state builder -/

/-- Reset, with the word at 0x200. -/
def boot (w : Nat) : State := State.reset.withFetchWord 16 w

/-- The state with PC at `pc` and the word there. -/
def bootAt (pc : Word) (w : Nat) : State := { State.reset with pc := pc }.withFetchWord 16 w

/-- With the registers listed set. -/
def regs (l : List (Reg × Byte)) (s : State) : State := l.foldl (fun s p => s.writeV p.1 p.2) s

/-- With I set. -/
def index (i : Word) (s : State) : State := { s with i := i }

/-- With bytes placed in memory. -/
def bytes (a : Nat) (l : List Byte) (s : State) : State := { s with mem := s.mem.writeList a l }

/-- With the keys listed pressed. -/
def keys (l : List (Fin 16)) (s : State) : State := l.foldl (fun s k => s.setKey k true) s

/-- With `n` entries on the stack, all `ret`. -/
def stacked (n : Fin 17) (ret : Word) (s : State) : State := { s with sp := n, stack := Vector.replicate 16 ret }

/-- With DT and ST set. -/
def timers (d t : Byte) (s : State) : State := { s with dt := d, st := t }

/-- The state after one step. -/
def after (s : State) : State :=
  match step s with
  | .next t => t
  | _ => s

/-- The state after an instruction's execute phase. -/
def ran (i : Instr) (s : State) : State :=
  match exec i s with
  | .next t => t
  | _ => s

/-! ## Well-formedness: one ill-formed line for each check, and the boundary that passes (R100) -/

theorem test_line_row_0 : AsmLine.wellFormed ⟨0, []⟩ = false := by decide
theorem test_line_row_35 : AsmLine.wellFormed ⟨35, [0]⟩ = false := by decide
theorem test_line_missing_operand : AsmLine.wellFormed ⟨8, [1]⟩ = false := by decide
theorem test_line_extra_operand : AsmLine.wellFormed ⟨1, [0]⟩ = false := by decide
theorem test_line_register_16 :
    AsmLine.wellFormed ⟨24, [16]⟩ = false ∧ AsmLine.wellFormed ⟨24, [15]⟩ = true := by decide
theorem test_line_second_register_16 : AsmLine.wellFormed ⟨14, [1, 16]⟩ = false := by decide
theorem test_line_byte_256 :
    AsmLine.wellFormed ⟨8, [1, 256]⟩ = false ∧ AsmLine.wellFormed ⟨8, [1, 255]⟩ = true := by decide
theorem test_line_nibble_16 :
    AsmLine.wellFormed ⟨23, [0, 1, 16]⟩ = false ∧ AsmLine.wellFormed ⟨23, [0, 1, 15]⟩ = true := by decide
theorem test_line_addr_4096 :
    AsmLine.wellFormed ⟨3, [4096]⟩ = false ∧ AsmLine.wellFormed ⟨3, [4095]⟩ = true := by decide
theorem test_line_omitted_Vy : (AsmLine.filled ⟨16, [1]⟩).instr = some (.shr 1 0) ∧
    (AsmLine.filled ⟨18, [1]⟩).instr = some (.shl 1 0) := by decide
theorem test_line_stands_for : AsmLine.instr ⟨23, [0, 1, 5]⟩ = some (.drw 0 1 5#4) := by decide

/-! ## Decoding: each row's word, its bits written out from R96's pattern and R92's fields -/

theorem test_decode_family_0 : decodeWord 0b0000000011100000#16 = .ok .cls ∧
    decodeWord 0b0000000011101110#16 = .ok .ret := ⟨rfl, rfl⟩
theorem test_decode_jumps : decodeWord 0b0001101010111100#16 = .ok (.jp 0xABC#12) ∧
    decodeWord 0b0010101010111100#16 = .ok (.call 0xABC#12) ∧
    decodeWord 0b1011101010111100#16 = .ok (.jpV0 0xABC#12) := ⟨rfl, rfl, rfl⟩
theorem test_decode_skips : decodeWord 0b0011101001000010#16 = .ok (.seImm 10 0x42#8) ∧
    decodeWord 0b0100101001000010#16 = .ok (.sneImm 10 0x42#8) ∧
    decodeWord 0b0101101010110000#16 = .ok (.seReg 10 11) ∧
    decodeWord 0b1001101010110000#16 = .ok (.sneReg 10 11) := ⟨rfl, rfl, rfl, rfl⟩
theorem test_decode_immediates : decodeWord 0b0110101001111011#16 = .ok (.ldImm 10 0x7B#8) ∧
    decodeWord 0b0111000111111110#16 = .ok (.addImm 1 0xFE#8) ∧
    decodeWord 0b1100000100001111#16 = .ok (.rnd 1 0x0F#8) := ⟨rfl, rfl, rfl⟩
theorem test_decode_family_8 : decodeWord 0b1000000100100000#16 = .ok (.ldReg 1 2) ∧
    decodeWord 0b1000000100100001#16 = .ok (.orReg 1 2) ∧ decodeWord 0b1000000100100010#16 = .ok (.andReg 1 2) ∧
    decodeWord 0b1000000100100011#16 = .ok (.xorReg 1 2) ∧ decodeWord 0b1000000100100100#16 = .ok (.addReg 1 2) ∧
    decodeWord 0b1000000100100101#16 = .ok (.subReg 1 2) ∧ decodeWord 0b1000000100100110#16 = .ok (.shr 1 2) ∧
    decodeWord 0b1000000100100111#16 = .ok (.subn 1 2) ∧ decodeWord 0b1000000100101110#16 = .ok (.shl 1 2) :=
  ⟨rfl, rfl, rfl, rfl, rfl, rfl, rfl, rfl, rfl⟩
theorem test_decode_index_and_draw : decodeWord 0b1010000100100011#16 = .ok (.ldI 0x123#12) ∧
    decodeWord 0b1101000000010101#16 = .ok (.drw 0 1 5#4) := ⟨rfl, rfl⟩
theorem test_decode_family_E : decodeWord 0b1110001010011110#16 = .ok (.skp 2) ∧
    decodeWord 0b1110001010100001#16 = .ok (.sknp 2) := ⟨rfl, rfl⟩
theorem test_decode_family_F : decodeWord 0b1111000100000111#16 = .ok (.ldVxDt 1) ∧
    decodeWord 0b1111001000001010#16 = .ok (.ldVxK 2) ∧ decodeWord 0b1111000000010101#16 = .ok (.ldDtVx 0) ∧
    decodeWord 0b1111000000011000#16 = .ok (.ldStVx 0) ∧ decodeWord 0b1111000100011110#16 = .ok (.addI 1) ∧
    decodeWord 0b1111001000101001#16 = .ok (.ldF 2) ∧ decodeWord 0b1111010100110011#16 = .ok (.ldB 5) ∧
    decodeWord 0b1111000101010101#16 = .ok (.ldMemVx 1) ∧ decodeWord 0b1111001001100101#16 = .ok (.ldVxMem 2) :=
  ⟨rfl, rfl, rfl, rfl, rfl, rfl, rfl, rfl, rfl⟩

/-- TF5 to TF9: unknown words, one group of R98 after another. -/
theorem test_decode_unknown : decodeWord 0x00E1#16 = .error .family0 ∧ decodeWord 0x0EEE#16 = .error .family0 ∧
    decodeWord 0x5121#16 = .error .family5 ∧ decodeWord 0x800D#16 = .error .family8 ∧
    decodeWord 0x912F#16 = .error .family9 ∧ decodeWord 0xE0A0#16 = .error .familyE ∧
    decodeWord 0xFFFF#16 = .error .familyF := ⟨rfl, rfl, rfl, rfl, rfl, rfl, rfl⟩

/-- The host's two entry points agree with the table's bit numbering. -/
theorem test_table_word : decodeTableWord 16 0xD015 = some (.drw 0 1 5#4) ∧
    (State.reset.withFetchWord 16 0xD015).fetch = 0xD015#16 := by decide

/-- One byte is no instruction. -/
theorem test_decode_short : decodeBytes [0x12#8] = .error .short := rfl

/-! ## Fetch and the step -/

/-- TF2: the low byte of the word at 0xFFF comes from 0x000. -/
theorem test_fetch_wraps : (bytes 0xFFF [0x10] { State.reset with pc := 0xFFF#16 }).fetch = 0x10F0#16 := by decide

/-- TF4. -/
theorem test_unknown_word : (after (timers 5 0 (boot 0x0000))).diag = some ⟨.unknownOpcode, 0x200#16, 0x0000#16⟩ ∧
    (after (timers 5 0 (boot 0x0000))).pc = 0x200#16 ∧ (after (timers 5 0 (boot 0x0000))).dt = 4#8 := by decide

/-- R65: the glyph A at 0x032 and the last byte of F at 0x04F. -/
theorem test_font :
    (List.range 5).map (fun k => State.reset.memRead (0x32 + k)) = [0xF0#8, 0x90#8, 0xF0#8, 0x90#8, 0x90#8] ∧
    State.reset.memRead 0x4F = 0x80#8 ∧ State.reset.memRead 0x50 = 0#8 := by decide

/-! ## Control transfer -/

/-- TC1 and TC3. -/
theorem test_ret : (after (stacked 1 0x0204 (boot 0x00EE))).pc = 0x0206#16 ∧
    (after (stacked 1 0x0204 (boot 0x00EE))).sp = 0 ∧ (after (stacked 1 0xFFFE (boot 0x00EE))).pc = 0#16 := by decide

/-- TC2. -/
theorem test_ret_empty : (after (boot 0x00EE)).diag = some ⟨.stackUnderflow, 0x200#16, 0x00EE#16⟩ ∧
    (after (boot 0x00EE)).pc = 0x200#16 := by decide

/-- TC4. -/
theorem test_jp : (after (boot 0x1ABC)).pc = 0x0ABC#16 := by decide

/-- TC7. -/
theorem test_call : (after (stacked 15 0 (bootAt 0x300 0x2ABC))).stack[15] = 0x0300#16 ∧
    (after (stacked 15 0 (bootAt 0x300 0x2ABC))).sp = 16 ∧
    (after (stacked 15 0 (bootAt 0x300 0x2ABC))).pc = 0x0ABC#16 := by decide

/-- TC8. -/
theorem test_call_full :
    (after (stacked 16 0 (bootAt 0x300 0x2ABC))).diag = some ⟨.stackOverflow, 0x300#16, 0x2ABC#16⟩ ∧
    (after (stacked 16 0 (bootAt 0x300 0x2ABC))).pc = 0x300#16 := by decide

/-- TC9. -/
theorem test_seImm : (after (regs [(10, 0x42)] (boot 0x3A42))).pc = 0x204#16 ∧
    (after (regs [(10, 0x42)] (boot 0x3A41))).pc = 0x202#16 := by decide

/-- TC15. -/
theorem test_skip_wraps : (after (bootAt 0xFFFE 0x3000)).pc = 0x0002#16 := by decide

/-- TC10. -/
theorem test_sneImm : (after (regs [(10, 0x42)] (boot 0x4A42))).pc = 0x202#16 ∧
    (after (regs [(10, 0x42)] (boot 0x4A41))).pc = 0x204#16 := by decide

/-- TC12, TC13. -/
theorem test_seReg : (after (regs [(10, 9), (11, 8)] (boot 0x5AB0))).pc = 0x202#16 ∧
    (after (regs [(10, 9)] (boot 0x5AA0))).pc = 0x204#16 := by decide

/-- TC12, TC13. -/
theorem test_sneReg : (after (regs [(10, 9), (11, 8)] (boot 0x9AB0))).pc = 0x204#16 ∧
    (after (regs [(10, 9)] (boot 0x9AA0))).pc = 0x202#16 := by decide

/-- TC16, TC17. -/
theorem test_jpV0 : (after (regs [(0, 0xFF)] (boot 0xBFFF))).pc = 0x10FE#16 ∧
    (after (regs [(10, 0x55)] (boot 0xBA00))).pc = 0x0A00#16 := by decide

/-! ## Registers and the ALU -/

/-- TA1. -/
theorem test_ldImm : (after (boot 0x6A7B)).readV 10 = 0x7B#8 := by decide

/-- TA2, TA4. -/
theorem test_addImm : (after (regs [(1, 0xFE), (15, 0x55)] (boot 0x7105))).readV 1 = 0x03#8 ∧
    (after (regs [(1, 0xFE), (15, 0x55)] (boot 0x7105))).readV 15 = 0x55#8 ∧
    (after (regs [(15, 0xFF)] (boot 0x7F01))).readV 15 = 0#8 := by decide

/-- TA5. -/
theorem test_ldReg : (after (regs [(2, 0x33), (15, 0x77)] (boot 0x8120))).readV 1 = 0x33#8 := by decide

/-- TA6. -/
theorem test_orReg : (after (regs [(1, 0xF0), (2, 0x0F), (15, 0x77)] (boot 0x8121))).readV 1 = 0xFF#8 ∧
    (after (regs [(1, 0xF0), (2, 0x0F), (15, 0x77)] (boot 0x8121))).readV 15 = 0x77#8 := by decide

/-- TA7. -/
theorem test_andReg : (after (regs [(1, 0xF0), (2, 0x3C)] (boot 0x8122))).readV 1 = 0x30#8 := by decide

/-- TA7, TA8. -/
theorem test_xorReg : (after (regs [(1, 0xF0), (2, 0x3C)] (boot 0x8123))).readV 1 = 0xCC#8 ∧
    (after (regs [(1, 0x5A)] (boot 0x8113))).readV 1 = 0#8 := by decide

/-- TS1 (the source's own), TA10. -/
theorem test_addReg : (after (regs [(1, 0xFF), (2, 0x01)] (boot 0x8124))).readV 1 = 0#8 ∧
    (after (regs [(1, 0xFF), (2, 0x01)] (boot 0x8124))).readV 15 = 1#8 ∧
    (after (regs [(1, 0x80), (2, 0x7F)] (boot 0x8124))).readV 15 = 0#8 := by decide

/-- TA12, TA13: VF as destination, and as source. -/
theorem test_addReg_VF : (after (regs [(15, 0x10), (2, 0xF5)] (boot 0x8F24))).readV 15 = 0x05#8 ∧
    (after (regs [(1, 0x80), (15, 0x90)] (boot 0x81F4))).readV 1 = 0x10#8 := by decide

/-- TS2 (the source's own), TA16. -/
theorem test_subReg : (after (regs [(2, 0x01)] (boot 0x8125))).readV 1 = 0xFF#8 ∧
    (after (regs [(2, 0x01)] (boot 0x8125))).readV 15 = 0#8 ∧
    (after (regs [(1, 7), (2, 7)] (boot 0x8125))).readV 15 = 1#8 := by decide

/-- TA17. -/
theorem test_subReg_VF : (after (regs [(15, 0x05), (2, 0x07)] (boot 0x8F25))).readV 15 = 0xFE#8 := by decide

/-- TA19, TA20, TA21. -/
theorem test_shr : (after (regs [(1, 0x05)] (boot 0x8106))).readV 15 = 1#8 ∧
    (after (regs [(1, 0x04), (2, 0xFF)] (boot 0x8126))).readV 1 = 0x02#8 ∧
    (after (regs [(15, 0x03)] (boot 0x8F06))).readV 15 = 0x01#8 := by decide

/-- TA22, TA24. -/
theorem test_subn : (after (regs [(1, 3), (2, 5)] (boot 0x8127))).readV 1 = 2#8 ∧
    (after (regs [(1, 3), (2, 5)] (boot 0x8127))).readV 15 = 1#8 ∧
    (after (regs [(1, 1)] (boot 0x8127))).readV 1 = 0xFF#8 ∧
    (after (regs [(1, 1)] (boot 0x8127))).readV 15 = 0#8 := by decide

/-- TA26, TA27. -/
theorem test_shl : (after (regs [(1, 0x81)] (boot 0x810E))).readV 1 = 2#8 ∧
    (after (regs [(1, 0x81)] (boot 0x810E))).readV 15 = 1#8 ∧
    (after (regs [(15, 0x81)] (boot 0x8F0E))).readV 15 = 0x02#8 := by decide

/-- TA28; the byte is used up. -/
theorem test_rnd : (after ((boot 0xC10F).supplyRnd 0xA7)).readV 1 = 0x07#8 ∧
    (after ((boot 0xC10F).supplyRnd 0xA7)).rndIn = [] := by decide

/-! ## The framebuffer -/

/-- TD1. -/
theorem test_cls :
    (after (regs [(15, 0x33)] { boot 0x00E0 with fb := Vector.replicate 32 0xFF#64 })).fb.row 7 = 0#64 ∧
    (after (regs [(15, 0x33)] { boot 0x00E0 with fb := Vector.replicate 32 0xFF#64 })).redraw = true ∧
    (after (regs [(15, 0x33)] { boot 0x00E0 with fb := Vector.replicate 32 0xFF#64 })).readV 15 = 0x33#8 := by decide

/-- TD4, TD5: clipped at the right edge, and an origin reduced. Row 0 has its column `x` at bit `x`. -/
theorem test_drw_clips : (after (regs [(0, 60)] (index 0x300 (bytes 0x300 [0xFF] (boot 0xD011))))).fb.row 0 =
      0xF000000000000000#64 ∧
    (after (regs [(0, 64), (1, 32)] (index 0x300 (bytes 0x300 [0x80] (boot 0xD011))))).fb.row 0 = 1#64 := by decide

/-- TD8, TD10: a collision; and a sprite that wraps to 0x000. -/
theorem test_drw_collides :
    (after (index 0x300 (bytes 0x300 [0xC0] { boot 0xD011 with fb := State.reset.fb.toggle 1 0 }))).fb.row 0 = 1#64 ∧
    (after (index 0x300 (bytes 0x300 [0xC0] { boot 0xD011 with fb := State.reset.fb.toggle 1 0 }))).readV 15 = 1#8 ∧
    (after (index 0xFFF (bytes 0xFFF [0x80] (boot 0xD012)))).fb.row 1 = 0xF#64 := by decide

/-! ## Keypad and timers -/

/-- TK1, TK3. -/
theorem test_skp : (after (keys [5] (regs [(2, 5)] (bootAt 0x300 0xE29E)))).pc = 0x304#16 ∧
    (after (regs [(2, 5)] (bootAt 0x300 0xE29E))).pc = 0x302#16 ∧
    (after (keys [5] (regs [(2, 0x15)] (bootAt 0x300 0xE29E)))).pc = 0x304#16 := by decide

/-- TK2. -/
theorem test_sknp : (after (regs [(2, 5)] (bootAt 0x300 0xE2A1))).pc = 0x304#16 ∧
    (after (keys [5] (regs [(2, 5)] (bootAt 0x300 0xE2A1)))).pc = 0x302#16 := by decide

/-- TK4. -/
theorem test_ldVxDt : (after (timers 2 0 (boot 0xF107))).readV 1 = 2#8 ∧
    (after (timers 2 0 (boot 0xF107))).dt = 1#8 := by decide

/-- TK6. -/
theorem test_ldVxK_waits : (after (timers 5 0 (regs [(2, 0x99)] (bootAt 0x206 0xF20A)))).pc = 0x206#16 ∧
    (after (timers 5 0 (regs [(2, 0x99)] (bootAt 0x206 0xF20A)))).readV 2 = 0x99#8 ∧
    (after (timers 5 0 (regs [(2, 0x99)] (bootAt 0x206 0xF20A)))).dt = 4#8 := by decide

/-- TK7. -/
theorem test_ldVxK : (after (keys [9, 3] (bootAt 0x206 0xF20A))).readV 2 = 3#8 ∧
    (after (keys [9, 3] (bootAt 0x206 0xF20A))).pc = 0x208#16 := by decide

/-- TK10. -/
theorem test_ldDtVx : (after (regs [(0, 3)] (boot 0xF015))).dt = 2#8 ∧ (after (boot 0xF015)).dt = 0#8 := by decide

/-- TK11. -/
theorem test_ldStVx : (after (regs [(0, 2)] (boot 0xF018))).soundOn = true ∧
    (after (regs [(0, 1)] (boot 0xF018))).soundOn = false := by decide

/-! ## Index register and memory -/

/-- TM1. -/
theorem test_ldI : (after (boot 0xA123)).i = 0x0123#16 := by decide

/-- TM3, TM4. -/
theorem test_addI : (after (index 0x0FFF (regs [(1, 1)] (boot 0xF11E)))).i = 0x1000#16 ∧
    (after (index 0x0FFF (regs [(1, 1)] (boot 0xF11E)))).readV 15 = 1#8 ∧
    (after (index 0x0FFE (regs [(1, 1)] (boot 0xF11E)))).readV 15 = 0#8 := by decide

/-- TM6, TM7: I wraps; VF as the source. -/
theorem test_addI_wraps : (after (index 0xFFFF (regs [(1, 1)] (boot 0xF11E)))).i = 0#16 ∧
    (after (index 0x0100 (regs [(15, 0x20)] (boot 0xFF1E)))).i = 0x0120#16 := by decide

/-- TM8. -/
theorem test_ldF : (after (regs [(2, 0x0A)] (boot 0xF229))).i = 0x0032#16 ∧
    (after (regs [(2, 0xFF)] (boot 0xF229))).i = 0x04FB#16 := by decide

/-- TS7 (the source's own). -/
theorem test_ldB :
    (List.range 3).map (fun k => (after (index 0x300 (regs [(5, 255)] (boot 0xF533)))).memRead (0x300 + k)) =
    [2#8, 5#8, 5#8] := by decide

/-- TM10, TM11: the last digit falls in the glyph ROM; the first two do. -/
theorem test_ldB_rom :
    (List.range 3).map (fun k => (after (index 0xFFE (regs [(5, 123)] (boot 0xF533)))).memRead (0xFFE + k)) =
      [1#8, 2#8, 0xF0#8] ∧
    (after (index 0x4E (regs [(5, 123)] (boot 0xF533)))).memRead 0x50 = 3#8 ∧
    (after (index 0x4E (regs [(5, 123)] (boot 0xF533)))).memRead 0x4F = 0x80#8 := by decide

/-- TM12. -/
theorem test_ldMemVx : (after (index 0x300 (regs [(0, 0x11), (1, 0x22)] (boot 0xF155)))).memRead 0x301 = 0x22#8 ∧
    (after (index 0x300 (regs [(0, 0x11), (1, 0x22)] (boot 0xF155)))).i = 0x302#16 := by decide

/-- TM15: the second byte is dropped in the glyph ROM. -/
theorem test_ldMemVx_rom : (after (index 0xFFF (regs [(0, 0xAA), (1, 0xBB)] (boot 0xF155)))).memRead 0xFFF = 0xAA#8 ∧
    (after (index 0xFFF (regs [(0, 0xAA), (1, 0xBB)] (boot 0xF155)))).memRead 0x000 = 0xF0#8 ∧
    (after (index 0xFFF (regs [(0, 0xAA), (1, 0xBB)] (boot 0xF155)))).i = 0x1001#16 := by decide

/-- TM16. -/
theorem test_ldVxMem : (after (index 0x300 (bytes 0x300 [1, 2, 3, 4] (boot 0xF265)))).readV 2 = 3#8 ∧
    (after (index 0x300 (bytes 0x300 [1, 2, 3, 4] (boot 0xF265)))).readV 3 = 0#8 ∧
    (after (index 0x300 (bytes 0x300 [1, 2, 3, 4] (boot 0xF265)))).i = 0x303#16 := by decide

/-- TM18: I wraps, and the address wraps to the glyph ROM. -/
theorem test_ldVxMem_wraps : (after (index 0xFFFF (bytes 0xFFF [0x12] (boot 0xF165)))).readV 0 = 0x12#8 ∧
    (after (index 0xFFFF (bytes 0xFFF [0x12] (boot 0xF165)))).readV 1 = 0xF0#8 ∧
    (after (index 0xFFFF (bytes 0xFFF [0x12] (boot 0xF165)))).i = 1#16 := by decide

/-! ## Host operations -/

/-- TH4. -/
theorem test_load : (List.range 4).map (fun k =>
    ((bytes 0x200 [0xAA, 0xBB, 0xCC, 0xDD] State.reset).afterHost (.load [0x11, 0x22])).memRead (0x200 + k)) =
    [0x11#8, 0x22#8, 0xCC#8, 0xDD#8] := by decide

/-- TK13: a press and release between steps is never seen. -/
theorem test_press_and_release : ((bootAt 0x206 0xF20A).setKey 4 true).setKey 4 false = bootAt 0x206 0xF20A := by decide

/-! ## Witnesses: states and operands that meet each statement's hypotheses, clause by clause -/

/-- Reset meets the invariant, and a step of it answers a next state. -/
theorem witness_StepKeepsInvariant : State.reset.Inv ∧ step State.reset = .next (after State.reset) := by
  refine ⟨⟨by decide, by decide⟩, rfl⟩

/-- A state with a byte above the ROM listed meets it too. -/
theorem witness_HostKeepsInvariant : (boot 0x6A7B).Inv := by
  refine ⟨by decide, by decide⟩

theorem witness_DecodeEncodeAgree : decodeWord 0x6A7B#16 = .ok (.ldImm 10 0x7B) ∧
    encode (.ldImm 10 0x7B) = 0x6A7B#16 := ⟨rfl, rfl⟩

/-- Row 8's word, and a word of no row: both sides of the table's statement. -/
theorem witness_DecoderFollowsOpcodeTable : (∃ r, opTable[7]? = some r ∧ r.selects 0x6A7B#16 = true) ∧
    ∀ r ∈ opTable, r.selects 0x5121#16 = false := by
  refine ⟨⟨_, rfl, by decide⟩, by decide⟩

/-- Each group of R98 at a boundary value. -/
theorem witness_UnknownWordsByFamily : decodeWord 0x0FFF#16 = .error .family0 ∧ decodeWord 0x500F#16 = .error .family5 ∧
    decodeWord 0x8FFF#16 = .error .family8 ∧ decodeWord 0x9FF1#16 = .error .family9 ∧
    decodeWord 0xEF9D#16 = .error .familyE ∧ decodeWord 0xFF66#16 = .error .familyF := ⟨rfl, rfl, rfl, rfl, rfl, rfl⟩

theorem witness_AssemblerLine : AsmLine.instr ⟨8, [15, 255]⟩ = some (.ldImm 15 0xFF#8) ∧
    AsmLine.instr ⟨8, [15, 256]⟩ = none ∧
    (AsmLine.filled ⟨16, [15]⟩).instr = some (.shr 15 0) ∧ (AsmLine.filled ⟨18, [15]⟩).instr = some (.shl 15 0) ∧
    (AsmLine.filled ⟨16, [16]⟩).instr = none ∧ (AsmLine.filled ⟨14, [1]⟩).instr = none := by decide

theorem witness_StepRunsDecodedInstruction :
    decodeBytes [(boot 0x6A7B).memRead (boot 0x6A7B).pc.toNat, (boot 0x6A7B).memRead ((boot 0x6A7B).pc.toNat + 1)] =
      .ok (.ldImm 10 0x7B, []) := rfl

theorem witness_UnknownWordIsInert : decodeWord (boot 0xFFFF).fetch = .error .familyF := rfl

/-- A diagnosed step of each kind. -/
theorem witness_DiagnosedStepIsInert :
    (step (boot 0xFFFF) = .next (after (boot 0xFFFF)) ∧ (after (boot 0xFFFF)).diag.isSome = true) ∧
    (after (boot 0x00EE)).diag.isSome = true ∧ (after (stacked 16 0 (boot 0x2ABC))).diag.isSome = true := by
  refine ⟨⟨rfl, by decide⟩, by decide, by decide⟩

/-- DiagnosticsExactlyWhen: no diagnostic one entry short of full, and with one entry. -/
theorem witness_DiagnosticsExactlyWhen : (after (stacked 15 0 (boot 0x2ABC))).diag = none ∧
    (after (stacked 1 0 (boot 0x00EE))).diag = none := by decide

/-- The five kinds of parked state (R266). -/
theorem witness_ParkedForever : (bootAt 0x20C 0x120C).parked = true ∧ (boot 0xFFFF).parked = true ∧
    (boot 0xF20A).parked = true ∧ (boot 0x00EE).parked = true ∧ (stacked 16 0 (boot 0x2ABC)).parked = true ∧
    (boot 0x6A7B).parked = false := by decide

/-- BNNN with NNN + V0 = PC is not on R266's list, and not parked here (notes/assumptions/14.md). -/
theorem test_jpV0_to_itself_is_not_parked : (boot 0xB200).parked = false ∧ (after (boot 0xB200)).pc = 0x200#16 := by
  decide

/-- Registers that agree on what 8124 reads, and differ elsewhere. -/
theorem witness_RegisterReadersAndWriters :
    (∀ r : Reg, r ∈ regReads (.addReg 1 2) →
      ((Vector.replicate 16 0#8).set 3 9#8)[r] = (State.reset.v)[r]) ∧
    exec (.addReg 1 2) State.reset = .next (ran (.addReg 1 2) State.reset) := by
  refine ⟨by decide, rfl⟩

theorem witness_FlagsAreZeroOrOne : (14 : Reg) ≠ VF ∧
    Instr.shl 14 15 ∈ [Instr.addReg 14 15, .subReg 14 15, .subn 14 15, .shr 14 15, .shl 14 15] := by decide

/-- DT set by FX15, ST by FX18, and neither. -/
theorem witness_Timers : decodeWord (boot 0xF015).fetch = .ok (.ldDtVx 0) ∧
    decodeWord (boot 0xF018).fetch = .ok (.ldStVx 0) ∧ decodeWord (boot 0x6000).fetch = .ok (.ldImm 0 0) ∧
    step (boot 0xF015) = .next (after (boot 0xF015)) ∧ (∀ x, Instr.cls ≠ .ldVxDt x) ∧
    exec .cls State.reset = .next (ran .cls State.reset) := by
  refine ⟨rfl, rfl, rfl, rfl, by decide, rfl⟩

/-- A pixel that CLS changes, one that DRW changes, and the last pixel of the host's list. -/
theorem witness_ScreenWriters :
    (ran .cls { State.reset with fb := State.reset.fb.toggle 63 31 }).fb.pixel 63 31 ≠
      ({ State.reset with fb := State.reset.fb.toggle 63 31 } : State).fb.pixel 63 31 ∧
    (ran (.drw 0 1 5) State.reset).fb.pixel 0 0 ≠ State.reset.fb.pixel 0 0 ∧ (63 < 64 ∧ 31 < 32) ∧
    exec (.drw 0 1 5) State.reset = .next (ran (.drw 0 1 5) State.reset) := by
  refine ⟨by decide, by decide, by decide, rfl⟩

theorem witness_Redraw : (after (boot 0x00E0)).redraw = true ∧ (after (boot 0xD010)).redraw = true ∧
    (after (boot 0x6000)).redraw = false ∧
    ({ State.reset with redraw := true }.afterHost .acknowledgeRedraw).redraw = false := by decide

theorem witness_Keys : (State.reset.afterHost (.setKey 15 true)).keyDown 15 = true ∧
    (State.reset.afterHost (.setKey 15 true)).keyDown 0 = false := by decide

/-- Each writer of I writes it; FX33 writes memory; CALL writes the stack; 6XNN none of them. -/
theorem witness_IndexMemoryAndStackWriters : (ran (.ldI 1) State.reset).i ≠ State.reset.i ∧
    (ran (.addI 0) (regs [(0, 1)] State.reset)).i ≠ State.reset.i ∧
    (ran (.ldF 0) (regs [(0, 1)] State.reset)).i ≠ State.reset.i ∧
    (ran (.ldMemVx 0) State.reset).i ≠ State.reset.i ∧ (ran (.ldVxMem 15) State.reset).i ≠ State.reset.i ∧
    (ran (.call 0) State.reset).sp ≠ State.reset.sp ∧ (∀ x, Instr.cls ≠ .ldB x ∧ Instr.cls ≠ .ldMemVx x) ∧
    (∀ n, Instr.cls ≠ .call n) ∧ Instr.cls ≠ .ret ∧ exec .cls State.reset = .next (ran .cls State.reset) := by
  refine ⟨by decide, by decide, by decide, by decide, by decide, by decide, by decide, by decide, by decide, rfl⟩

theorem witness_RndReadOnlyByCxnn : exec .cls State.reset = .next (ran .cls State.reset) ∧
    (∀ x nn, Instr.cls ≠ .rnd x nn) ∧ step (boot 0xC10F) = .next (after (boot 0xC10F)) :=
  ⟨rfl, by simp, rfl⟩

/-- A byte of the ROM is not written, the first byte above it is, through an address past memory too. -/
theorem witness_MemWriteThenMemRead : (State.reset.memWrite 0x4F 7).memRead 0x4F = 0x80#8 ∧
    (State.reset.memWrite 0x50 7).memRead 0x50 = 7#8 ∧ (State.reset.memWrite 0x1050 7).memRead 0x50 = 7#8 := by decide

theorem witness_IndexToGlyphReadsTheFont : State.reset.Inv ∧ ((regs [(3, 15)] State.reset).readV 3).toNat < 16 := by
  refine ⟨⟨by decide, by decide⟩, by decide⟩

/-- CALL with 0 and 15 entries, and full. -/
theorem witness_Call : State.reset.sp.val < 16 ∧ (stacked 15 0 State.reset).sp.val < 16 ∧
    (stacked 16 0 State.reset).sp.val = 16 := by decide

/-- The sixteenth CALL and a RET from the state it leaves. -/
theorem witness_CallThenReturnResumes : (stacked 15 0 State.reset).sp.val < 16 ∧
    exec (.call 0xABC) (stacked 15 0 State.reset) = .next (ran (.call 0xABC) (stacked 15 0 State.reset)) ∧
    (ran (.call 0xABC) (stacked 15 0 State.reset)).sp = 16 ∧
    (ran .ret (ran (.call 0xABC) (stacked 15 0 State.reset))).pc = 0x202#16 := by
  refine ⟨by decide, rfl, by decide, by decide⟩

/-- RET with 1 and 16 entries, and empty. -/
theorem witness_Ret : (stacked 1 0 State.reset).sp.val = (0 : Fin 16).val + 1 ∧
    (stacked 16 0 State.reset).sp.val = (15 : Fin 16).val + 1 ∧ State.reset.sp.val = 0 := by decide

theorem witness_RandomAndMask : (State.reset.supplyRnd 0xA7).rndIn = 0xA7#8 :: [] := by decide

theorem witness_DrawTwice : (0 : Reg) ≠ VF ∧ (14 : Reg) ≠ VF ∧ State.reset.fb = Framebuffer.clear := by decide

/-- A sprite bit at the grid's last column and row, and none past it. -/
theorem witness_DrawSprite : (regs [(0, 63), (1, 31)] State.reset).plots 0 1 1 63 31 := by
  refine ⟨0, by decide, 0, by decide, by decide, by decide, by decide, by decide, by decide⟩

theorem witness_SkipOnKey : (5 : Fin 16).val = ((regs [(2, 0x15)] State.reset).readV 2).toNat % 16 := by decide

/-- FX07 with DT above 0. -/
theorem witness_ReadDelayTimer : decodeWord (timers 255 0 (boot 0xFF07)).fetch = .ok (.ldVxDt 15) ∧
    step (timers 255 0 (boot 0xFF07)) = .next (after (timers 255 0 (boot 0xFF07))) ∧
    (timers 255 0 (boot 0xFF07)).dt ≠ 0#8 := by
  refine ⟨rfl, rfl, by decide⟩

/-- FX15 at 0x200, and FX07 after it. -/
theorem witness_SetDelayTimer :
    decodeWord (bytes 0x200 [0xF0, 0x15, 0xF1, 0x07] State.reset).fetch = .ok (.ldDtVx 0) ∧
    decodeWord (after (bytes 0x200 [0xF0, 0x15, 0xF1, 0x07] State.reset)).fetch = .ok (.ldVxDt 1) ∧
    step (bytes 0x200 [0xF0, 0x15, 0xF1, 0x07] State.reset) =
      .next (after (bytes 0x200 [0xF0, 0x15, 0xF1, 0x07] State.reset)) ∧
    step (after (bytes 0x200 [0xF0, 0x15, 0xF1, 0x07] State.reset)) =
      .next (after (after (bytes 0x200 [0xF0, 0x15, 0xF1, 0x07] State.reset))) := ⟨rfl, rfl, rfl, rfl⟩

theorem witness_SetSoundTimer : decodeWord (boot 0xFF18).fetch = .ok (.ldStVx 15) ∧
    step (boot 0xFF18) = .next (after (boot 0xFF18)) := ⟨rfl, rfl⟩

/-- Key 15 the only one pressed; and none. -/
theorem witness_WaitForKey : ((keys [15] State.reset).keyDown 15 = true ∧
    ∀ j < (15 : Fin 16), (keys [15] State.reset).keyDown j = false) ∧ ∀ k : Fin 16, State.reset.keyDown k = false := by
  decide

/-- The last register of a full dump, its address wrapping past 0xFFF; an address it does not reach. -/
theorem witness_RegisterDump : (15 : Reg) ≤ 15 ∧
    addr12 ((index 0xFFFF State.reset).indexAddr 15) = addr12 0x00E ∧ addr12 0x00E < 0x50 ∧
    (∀ k : Reg, k ≤ 15 → addr12 ((index 0x300 State.reset).indexAddr k.val) ≠ addr12 0x310) ∧ 0x50 ≤ addr12 0x310 ∧
    addr12 ((index 0x300 State.reset).indexAddr 15) = addr12 0x30F := by decide

theorem witness_DumpThenLoad :
    (∀ k : Reg, k ≤ 15 → 0x50 ≤ addr12 ((index 0x50 State.reset).indexAddr k.val)) ∧
    exec (.ldMemVx 15) (index 0x50 State.reset) = .next (ran (.ldMemVx 15) (index 0x50 State.reset)) ∧
    (ran (.ldMemVx 15) (index 0x50 State.reset)).mem = (index 0x50 State.reset).mem := by
  refine ⟨by decide, rfl, by decide⟩

/-- 3584 bytes fit; 3585 do not (TH1, TH2). -/
theorem witness_LoadCartridge : (List.replicate 3584 (0xAA : Byte)).length ≤ 3584 ∧
    3584 < (List.replicate 3585 (0xAA : Byte)).length ∧ addr12 0xFFF = 0x200 + 3583 := by
  simp only [List.length_replicate]; decide

end Sys2Proof.Tests
end

section
/-! PROOFS. Which general registers an instruction reads and writes (R22), and who writes the framebuffer and
redraw_pending (R31, R32). -/

namespace Sys2Proof.Machine

/-! ## The same state with other general registers -/

/-- The state with its general registers replaced. -/
def State.withV (s : State) (v' : Vector Byte 16) : State := { s with v := v' }

theorem State.withV_skipIf (s : State) (v' : Vector Byte 16) (c : Bool) :
    (s.withV v').skipIf c = (s.skipIf c).withV v' := by
  rw [State.skipIf_eq, State.skipIf_eq]; rfl

@[simp] theorem State.skipIf_v (s : State) (c : Bool) : (s.skipIf c).v = s.v := by
  rw [State.skipIf_eq, State.jumpTo_v]

@[simp] theorem State.withV_keyDown (s : State) (v' : Vector Byte 16) (k : Fin 16) :
    (s.withV v').keyDown k = s.keyDown k := rfl

/-- FX55 stores the same bytes when V[0] to V[X] are the same. -/
theorem State.regsThrough_congr {s t : State} {x : Reg} (h : ∀ r ∈ regsUpTo x, t.readV r = s.readV r) :
    t.regsThrough x = s.regsThrough x := List.map_congr_left h

/-- Where and what DRW draws depends on Vx and Vy among the registers. -/
theorem State.drawn_withV {s : State} {v' : Vector Byte 16} {x y : Reg} (n : Nibble)
    (hx : (s.withV v').readV x = s.readV x) (hy : (s.withV v').readV y = s.readV y) :
    (s.withV v').drawn x y n = s.drawn x y n := by
  rw [State.drawn, hx, hy]; rfl

/-! ## The flow of register values through one instruction -/

/-- `o` and `o'` are an instruction's outcomes from `s` and from a state that differs from `s` in general registers only.
Both complete; from `s` no register but those of `ws` changes; and the two next states agree on the registers of `ws` and
on all that is no general register. -/
def RegFlow (ws : List Reg) (s : State) (o o' : Host.Outcome State Fault Refusal) : Prop :=
  ∃ t t', o = .next t ∧ o' = .next t' ∧ SameRegsBut ws s t ∧ t'.withV t.v = t ∧ ∀ r ∈ ws, t'.readV r = t.readV r

section
variable {s u t : State} {v' : Vector Byte 16} {x : Reg} {a f : Byte}

/-- No register written: the second outcome is the first, with the other registers. -/
theorem RegFlow.of_keep (hv : t.v = s.v) : RegFlow [] s (.next t) (.next (t.withV v')) :=
  ⟨t, t.withV v', rfl, rfl, fun r _ => by rw [State.readV, hv, State.readV], rfl, by simp⟩

theorem RegFlow.of_keep_of_eq {o' : Host.Outcome State Fault Refusal} (hv : t.v = s.v)
    (ho : o' = .next (t.withV v')) : RegFlow [] s (.next t) o' := ho ▸ .of_keep hv

/-- A skip whose condition comes out the same. -/
theorem RegFlow.of_skipIf {c c' : Bool} (hc : c' = c) :
    RegFlow [] s (.next (s.skipIf c)) (.next ((s.withV v').skipIf c')) := by
  rw [hc, State.withV_skipIf]; exact .of_keep (State.skipIf_v s c)

/-- One register written, after effects outside the general registers. -/
theorem RegFlow.of_writeV {a' : Byte} (hv : u.v = s.v) (ha : a' = a) :
    RegFlow [x] s (.next (u.writeV x a).advance2) (.next ((u.withV v').writeV x a').advance2) := by
  subst ha
  refine ⟨_, _, rfl, rfl, fun r hr => ?_, rfl, ?_⟩
  · rw [State.readV_advance2, State.readV_writeV, if_neg (by simpa [eq_comm] using hr), State.readV, hv, State.readV]
  · simp

/-- VF and then the result written (R162). -/
theorem RegFlow.of_flaggedResult {a' f' : Byte} (hf : f' = f) (ha : a' = a) :
    RegFlow [VF, x] s (s.flaggedResult x f a) ((s.withV v').flaggedResult x f' a') := by
  subst hf ha
  refine ⟨_, _, rfl, rfl, fun r hr => ?_, rfl, ?_⟩
  · obtain ⟨hVF, hx⟩ : VF ≠ r ∧ x ≠ r := by simpa [eq_comm] using hr
    rw [State.readV_advance2, State.readV_writeV, if_neg hx, State.readV_writeV, if_neg hVF]
  · simp [State.readV_writeV]

theorem execRet_regFlow : RegFlow [] s (execRet s) (execRet (s.withV v')) := by
  rcases Nat.eq_zero_or_pos s.sp.val with h | h
  · rw [execRet, execRet, State.pop_of_empty s h, State.pop_of_empty (s.withV v') h]
    exact .of_keep rfl
  · rw [execRet, execRet, State.pop_of_pos s h, State.pop_of_pos (s.withV v') h]
    exact .of_keep rfl

theorem execCall_regFlow (nnn : Addr) : RegFlow [] s (execCall nnn s) (execCall nnn (s.withV v')) := by
  rcases Nat.lt_or_eq_of_le (Nat.lt_succ_iff.1 s.sp.isLt) with h | h
  · rw [execCall, execCall, State.push_of_lt s _ h, State.push_of_lt (s.withV v') _ h]
    exact .of_keep rfl
  · rw [execCall, execCall, State.push_of_full s _ h, State.push_of_full (s.withV v') _ h]
    exact .of_keep rfl

theorem execLdVxK_regFlow :
    RegFlow (regWrites s (.ldVxK x)) s (execLdVxK x s) (execLdVxK x (s.withV v')) := by
  have hk : (s.withV v').lowestKey = s.lowestKey := State.lowestKey_congr rfl
  rw [execLdVxK, execLdVxK, hk, regWrites]
  cases s.lowestKey with
  | none => exact .of_keep rfl
  | some k => exact .of_writeV rfl rfl

/-- FX65 loads V[0] to V[X] from memory. -/
theorem execLdVxMem_regFlow : RegFlow (regsUpTo x) s (execLdVxMem x s) (execLdVxMem x (s.withV v')) := by
  refine ⟨_, _, rfl, rfl, fun r hr => ?_, rfl, fun r hr => ?_⟩
  · rw [State.readV_advance2, State.readV_writeI, State.readV_loadRegsThrough, if_neg (mt mem_regsUpTo.2 hr)]
  · simp only [State.readV_advance2, State.readV_writeI, State.readV_loadRegsThrough, if_pos (mem_regsUpTo.1 hr)]
    rfl

/-- R22's table, row by row. -/
theorem exec_regFlow (i : Instr) (h : ∀ r ∈ regReads i, (s.withV v').readV r = s.readV r) :
    RegFlow (regWrites s i) s (exec i s) (exec i (s.withV v')) := by
  cases i with
  | cls | jp nnn | ldI nnn => exact .of_keep rfl
  | ret => exact execRet_regFlow
  | call nnn => exact execCall_regFlow nnn
  | seImm x nn | sneImm x nn | seReg x y | sneReg x y | skp x | sknp x =>
    simp only [regReads, List.forall_mem_cons] at h
    exact .of_skipIf (by simp [h])
  | jpV0 nnn | ldDtVx x | ldStVx x | ldF x | ldB x =>
    refine .of_keep_of_eq (v' := v') rfl ?_
    rw [← h _ (List.mem_singleton_self _)]; rfl
  | ldMemVx x =>
    refine .of_keep_of_eq (v' := v') rfl ?_
    rw [← State.regsThrough_congr h]; rfl
  | ldImm x nn | rnd x nn | ldVxDt x => exact .of_writeV rfl rfl
  | addImm x nn | ldReg x y | orReg x y | andReg x y | xorReg x y =>
    simp only [regReads, List.forall_mem_cons] at h
    exact .of_writeV rfl (by simp [h])
  | addReg x y | subReg x y | shr x y | subn x y | shl x y =>
    simp only [regReads, List.forall_mem_cons] at h
    exact .of_flaggedResult (by simp [h]) (by simp [h])
  | drw x y n =>
    have hd := State.drawn_withV n (h x (by simp [regReads])) (h y (by simp [regReads]))
    rw [exec, exec, execDrw, execDrw, hd]
    exact .of_writeV rfl rfl
  | addI x =>
    rw [exec, exec, execAddI, execAddI, h x (List.mem_singleton_self x)]
    exact .of_writeV rfl rfl
  | ldVxK x => exact execLdVxK_regFlow
  | ldVxMem x => exact execLdVxMem_regFlow

end

/-- Settles O13: both halves are the flow of register values, the first with the registers as they are. -/
theorem registerReadersAndWriters : Obligations.RegisterReadersAndWriters := by
  unfold Obligations.RegisterReadersAndWriters
  refine ⟨fun i s t ht => ?_, fun i s v' h => ?_⟩
  · obtain ⟨u, -, hu, -, hframe, -⟩ := exec_regFlow (s := s) (v' := s.v) i fun _ _ => rfl
    rw [ht, Host.Outcome.next.injEq] at hu
    exact hu ▸ hframe
  · obtain ⟨t, t', ht, ht', -, hrest, hsame⟩ := exec_regFlow (s := s) i h
    exact ⟨t, t', ht, ht', hrest, hsame⟩

/-! ## The screen -/

theorem State.skipIf_sameScreen (s : State) (c : Bool) : SameScreen s (s.skipIf c) := by
  rw [State.skipIf_eq]; exact ⟨fun _ _ => rfl, rfl⟩

theorem execRet_sameScreen {s t : State} (h : execRet s = .next t) : SameScreen s t := by
  unfold execRet State.pop at h
  split_ifs at h <;> cases h <;> exact ⟨fun _ _ => rfl, rfl⟩

theorem execCall_sameScreen {nnn : Addr} {s t : State} (h : execCall nnn s = .next t) : SameScreen s t := by
  unfold execCall State.push at h
  split_ifs at h <;> cases h <;> exact ⟨fun _ _ => rfl, rfl⟩

theorem execLdVxK_sameScreen {x : Reg} {s t : State} (h : execLdVxK x s = .next t) : SameScreen s t := by
  unfold execLdVxK at h
  split at h <;> cases h <;> exact ⟨fun _ _ => rfl, rfl⟩

/-- Every instruction but CLS and DRW leaves the screen as it was. -/
theorem exec_sameScreen {i : Instr} {s t : State} (hc : i ≠ .cls) (hd : ∀ x y n, i ≠ .drw x y n)
    (h : exec i s = .next t) : SameScreen s t := by
  cases i with
  | cls => exact absurd rfl hc
  | drw x y n => exact absurd rfl (hd x y n)
  | ret => exact execRet_sameScreen h
  | call nnn => exact execCall_sameScreen h
  | ldVxK x => exact execLdVxK_sameScreen h
  | seImm x nn | sneImm x nn | seReg x y | sneReg x y | skp x | sknp x => cases h; exact s.skipIf_sameScreen _
  | _ => cases h; exact ⟨fun _ _ => rfl, rfl⟩

/-- What an instruction can do to the screen: CLS clears it, DRW draws on it, every other keeps it (R31, R32). -/
theorem exec_screen_cases {i : Instr} {s t : State} (h : exec i s = .next t) :
    (i = .cls ∧ t.fb = Framebuffer.clear ∧ t.redraw = true) ∨
    (∃ x y n, i = .drw x y n ∧ t.fb = (s.drawn x y n).1 ∧ t.redraw = true) ∨
    (i ≠ .cls ∧ (∀ x y n, i ≠ .drw x y n) ∧ SameScreen s t) := by
  by_cases hc : i = .cls
  · subst hc; cases h; exact .inl ⟨rfl, rfl, rfl⟩
  by_cases hd : ∃ x y n, i = .drw x y n
  · obtain ⟨x, y, n, rfl⟩ := hd; cases h; exact .inr (.inl ⟨x, y, n, rfl, rfl, rfl⟩)
  · have hd' : ∀ x y n, i ≠ .drw x y n := fun x y n e => hd ⟨x, y, n, e⟩
    exact .inr (.inr ⟨hc, hd', exec_sameScreen hc hd' h⟩)

/-- Settles O16, by what an instruction can do to the screen and the row-major order of the host's list. -/
theorem screenWritersAndLayout : Obligations.ScreenWritersAndLayout := by
  unfold Obligations.ScreenWritersAndLayout
  refine ⟨fun i s t x y h hne => ?_, fun s => ⟨by simp [State.readFramebuffer], fun x y hx hy => ?_⟩⟩
  · obtain ⟨rfl, hfb, -⟩ | ⟨a, b, n, rfl, -⟩ | ⟨-, -, hsame, -⟩ := exec_screen_cases h
    · exact .inr ⟨rfl, by rw [hfb, Framebuffer.pixel_clear]⟩
    · exact .inl ⟨a, b, n, rfl⟩
    · exact absurd (hsame x y) hne
  · have hlt : y * 64 + x < 2048 := by omega
    have hcol : (y * 64 + x) % 64 = x := by omega
    have hrow : (y * 64 + x) / 64 = y := by omega
    simp [State.readFramebuffer, List.getElem?_range hlt, hcol, hrow]

/-- The loader writes memory only (R260). -/
theorem State.load_redraw {s t : State} {bytes : List Byte} (h : s.load bytes = .ok t) : t.redraw = s.redraw := by
  unfold State.load at h
  split at h <;> cases h
  rfl

/-- redraw_pending after a host operation. -/
theorem State.afterHost_redraw (s : State) (o : HostOp) :
    (s.afterHost o).redraw = if o = .acknowledgeRedraw then false else s.redraw := by
  cases o with
  | load bytes =>
    rw [State.afterHost, if_neg nofun]
    split
    · next h => exact State.load_redraw h
    · rfl
  | setKey k p => rfl
  | acknowledgeRedraw => rfl
  | supplyRnd b => rfl

/-- Settles O17, by what the step's instruction can do to the screen; an unknown word does nothing to it. -/
theorem redrawSetByScreenClearedByHost : Obligations.RedrawSetByScreenClearedByHost := by
  unfold Obligations.RedrawSetByScreenClearedByHost
  refine ⟨fun s u h => ?_, State.afterHost_redraw⟩
  obtain ⟨i, t, hd, ht, rfl⟩ | ⟨e, hd, rfl⟩ := step_cases h
  · rw [hd, State.endStep_redraw]
    obtain ⟨rfl, -, hr⟩ | ⟨x, y, n, rfl, -, hr⟩ | ⟨hc, hn, -, hr⟩ := exec_screen_cases ht
    · exact hr
    · exact hr
    · rw [hr]
      split
      · next e => cases e; exact absurd rfl hc
      · next x y n e => cases e; exact absurd rfl (hn x y n)
      · rfl
  · rw [hd]; rfl

end Sys2Proof.Machine
end

section
/-! PROOFS. The two bytes of a fetched word (R67). -/

namespace Sys2Proof

theorem hiByte_wordOfBytes (hi lo : Byte) : hiByte (wordOfBytes hi lo) = hi := by
  apply BitVec.eq_of_toNat_eq; rw [toNat_hiByte, toNat_wordOfBytes]; omega

theorem loByte_wordOfBytes (hi lo : Byte) : loByte (wordOfBytes hi lo) = lo := by
  apply BitVec.eq_of_toNat_eq; rw [toNat_loByte, toNat_wordOfBytes]; omega

end Sys2Proof

namespace Sys2Proof.Machine

/-- Fetch joins its two bytes as the decoder does. -/
theorem State.fetch_eq_wordOfBytes (s : State) :
    s.fetch = wordOfBytes (s.memRead s.pc.toNat) (s.memRead (s.pc.toNat + 1)) := rfl

/-- Settles O6: the fetched word is the word of the bytes at PC and PC + 1, and a word's bytes are those it was
joined from. -/
theorem fetchIsBigEndian : Obligations.FetchIsBigEndian := by
  unfold Obligations.FetchIsBigEndian
  intro s
  rw [State.fetch_eq_wordOfBytes]
  exact ⟨hiByte_wordOfBytes _ _, loByte_wordOfBytes _ _⟩

end Sys2Proof.Machine
end

section
/-! PROOFS. The frame of a jump, and JP (R131). -/

namespace Sys2Proof.Machine

/-- A 12-bit address zero-extended keeps its value. -/
@[simp] theorem toNat_zext16 (nnn : Addr) : (zext16 nnn).toNat = nnn.toNat :=
  BitVec.toNat_setWidth_of_le (by decide)

/-- A jump changes PC and nothing else. -/
theorem State.jumpTo_sameButRegs (s : State) (x : Word) : SameButRegs [] s (s.jumpTo x) :=
  have hregs : SameRegsBut [] s (s.jumpTo x) := fun r _ => s.readV_jumpTo x r
  have hmem : SameMem s (s.jumpTo x) := State.memRead_congr (s.jumpTo_mem x)
  ⟨⟨hregs, ⟨rfl, fun _ => rfl⟩, ⟨rfl, rfl⟩, ⟨fun _ _ => rfl, rfl⟩, hmem, ⟨rfl, rfl, rfl⟩, rfl⟩, rfl⟩

theorem exec_jp (nnn : Addr) (s : State) : exec (.jp nnn) s = .next (s.jumpTo (zext16 nnn)) := rfl

/-- Settles O23: 1NNN is JP's encoding, and JP is a jump to NNN zero-extended. -/
theorem jumpAbsolute : Obligations.JumpAbsolute := by
  unfold Obligations.JumpAbsolute
  intro nnn s
  refine ⟨Laws.RoundTrip.jp nnn, s.jumpTo (zext16 nnn), exec_jp nnn s, ?_, s.jumpTo_sameButRegs _⟩
  rw [State.jumpTo_pc, toNat_zext16]

end Sys2Proof.Machine
end

section
/-! PROOFS. What writing a result does, with and without a flag (R162, R165), and the instructions LD Vx, byte (R150) and
ADD Vx, Vy (R156); every flag is a bit (R163). -/

namespace Sys2Proof.Machine

/-! ## The two ways to write a result -/

/-- Other general registers and another PC: the rest is as before, and so are the registers that keep their value. -/
theorem State.withV_jumpTo_sameButRegs {rs : List Reg} {s : State} {v' : Vector Byte 16} (pc' : Word)
    (h : SameRegsBut rs s (s.withV v')) : SameButRegs rs s ((s.withV v').jumpTo pc') := by
  obtain ⟨⟨-, hrest⟩, hi⟩ := (s.withV v').jumpTo_sameButRegs pc'
  exact ⟨⟨h, hrest⟩, hi⟩

/-- A result without a flag: Vx is the value, PC is 2 on, and nothing else changes (R165). -/
theorem State.result_spec (s : State) (x : Reg) (value : Byte) :
    ∃ t, s.result x value = .next t ∧ t.readV x = value ∧ t.pc = s.pc + 2#16 ∧ SameButRegs [x] s t := by
  have hregs : SameRegsBut [x] s (s.writeV x value) := fun r hr => by
    rw [State.readV_writeV, if_neg (by simpa [eq_comm] using hr)]
  exact ⟨_, rfl, by simp, rfl, State.withV_jumpTo_sameButRegs _ hregs⟩

/-- A result with a flag: Vx is the value even for `x = VF`, otherwise VF is the flag; PC is 2 on, and nothing else
changes (R162). -/
theorem State.flaggedResult_spec (s : State) (x : Reg) (flag value : Byte) :
    ∃ t, s.flaggedResult x flag value = .next t ∧ t.readV x = value ∧ (x ≠ VF → t.readV VF = flag) ∧
      t.pc = s.pc + 2#16 ∧ SameButRegs [x, VF] s t := by
  have hregs : SameRegsBut [x, VF] s ((s.writeV VF flag).writeV x value) := fun r hr => by
    obtain ⟨hx, hVF⟩ : x ≠ r ∧ VF ≠ r := by simpa [eq_comm] using hr
    rw [State.readV_writeV, if_neg hx, State.readV_writeV, if_neg hVF]
  refine ⟨_, rfl, by simp, fun hx => ?_, rfl, State.withV_jumpTo_sameButRegs _ hregs⟩
  rw [State.readV_advance2, State.readV_writeV, if_neg hx, State.readV_writeV_self]

/-! ## LD Vx, byte and ADD Vx, Vy -/

theorem exec_ldImm (x : Reg) (nn : Byte) (s : State) : exec (.ldImm x nn) s = s.result x nn := rfl

theorem exec_addReg (x y : Reg) (s : State) :
    exec (.addReg x y) s = s.flaggedResult x (carryFlag (s.readV x) (s.readV y)) (s.readV x + s.readV y) := rfl

/-- Settles O30: 6XNN is the encoding, and LD writes NN as a result without a flag. -/
theorem setImmediate : Obligations.SetImmediate := by
  unfold Obligations.SetImmediate
  intro x nn s
  rw [exec_ldImm]
  exact ⟨Laws.RoundTrip.ldImm x nn, s.result_spec x nn⟩

theorem carryFlag_eq (a b : Byte) : carryFlag a b = if 0xFF < a.toNat + b.toNat then 1#8 else 0#8 := by
  simp only [carryFlag, flagByte, decide_eq_true_eq]

/-- Settles O33: 8XY4 is the encoding, and ADD writes the sum as a result with the carry as its flag. -/
theorem addWithCarry : Obligations.AddWithCarry := by
  unfold Obligations.AddWithCarry
  intro x y s
  obtain ⟨t, ht, hsum, hflag, hpc, hframe⟩ :=
    s.flaggedResult_spec x (carryFlag (s.readV x) (s.readV y)) (s.readV x + s.readV y)
  refine ⟨Laws.RoundTrip.addReg x y, t, (exec_addReg x y s).trans ht, ?_, fun hx => ?_, hpc, hframe⟩
  · rw [hsum, BitVec.toNat_add]
  · rw [hflag hx, carryFlag_eq]

/-! ## Flags are bits -/

theorem flagByte_eq_zero_or_one (b : Bool) : flagByte b = 0#8 ∨ flagByte b = 1#8 := by
  cases b with
  | false => exact .inl rfl
  | true => exact .inr rfl

/-- The five instructions with a flag write a result whose flag is a truth value's byte. -/
theorem exec_eq_flaggedResult_flagByte {i : Instr} {x y : Reg}
    (h : i ∈ [Instr.addReg x y, .subReg x y, .subn x y, .shr x y, .shl x y]) (s : State) :
    ∃ b value, exec i s = s.flaggedResult x (flagByte b) value := by
  simp only [List.mem_cons, List.not_mem_nil, or_false] at h
  obtain rfl | rfl | rfl | rfl | rfl := h
  · exact ⟨_, _, exec_addReg x y s⟩
  · exact ⟨_, _, rfl⟩
  · exact ⟨_, _, rfl⟩
  · exact ⟨_, _, rfl⟩
  · exact ⟨_, _, rfl⟩

/-- Settles O14: VF keeps the flag where another register takes the result, and the flag is a truth value's byte. -/
theorem flagsAreZeroOrOne : Obligations.FlagsAreZeroOrOne := by
  unfold Obligations.FlagsAreZeroOrOne
  intro i x y s hx hi
  obtain ⟨b, value, hexec⟩ := exec_eq_flaggedResult_flagByte hi s
  obtain ⟨t, ht, -, hflag, -⟩ := s.flaggedResult_spec x (flagByte b) value
  exact ⟨t, hexec.trans ht, hflag hx ▸ flagByte_eq_zero_or_one b⟩

end Sys2Proof.Machine
end

section
/-! PROOFS. CLS (R180). -/

namespace Sys2Proof.Machine

theorem exec_cls (s : State) : exec .cls s = .next (s.showScreen Framebuffer.clear).advance2 := rfl

/-- Settles O37: 00E0 is CLS's encoding; the clear screen has no pixel lit; and what the jump to the next instruction
keeps of the state with the clear screen, that state has from `s`. -/
theorem clearScreen : Obligations.ClearScreen := by
  unfold Obligations.ClearScreen
  intro s
  obtain ⟨⟨hregs, hstack, htimers, -, hmem, hinputs, hdiag⟩, hi⟩ :=
    (s.showScreen Framebuffer.clear).jumpTo_sameButRegs (s.pc + 2#16)
  exact ⟨Laws.RoundTrip.cls, _, exec_cls s, Framebuffer.pixel_clear, rfl, rfl, hregs, hi, hstack, htimers, hmem,
    hinputs, hdiag⟩

end Sys2Proof.Machine
end

section
/-! PROOFS. What the tick does to a timer's number (R250), and the delay timer's instructions LD Vx, DT (R202) and
LD DT, Vx (R204), each alone and followed by the tick that ends its step. -/

namespace Sys2Proof.Machine

/-- The tick in numbers, where subtraction stops at 0 as the timer does. -/
theorem toNat_tickTimer (b : Byte) : (tickTimer b).toNat = b.toNat - 1 := by
  unfold tickTimer
  split
  · next h => rw [h]; rfl
  · next h => bv_omega

/-- A step on a known word ends where its completed instruction's `endStep` does. -/
theorem eq_endStep_of_step {s t u : State} {i : Instr} (hd : decodeWord s.fetch = .ok i)
    (hu : exec i s.beginStep = .next u) (h : step s = .next t) : t = u.endStep :=
  Host.Outcome.next.inj (h.symm.trans (step_of_decoded hd hu))

/-! ## LD Vx, DT -/

theorem exec_ldVxDt (x : Reg) (s : State) : exec (.ldVxDt x) s = s.result x s.dt := rfl

/-- A step of FX07 reads DT before its own tick. -/
theorem readV_of_step_ldVxDt {x : Reg} {s t : State} (hd : decodeWord s.fetch = .ok (.ldVxDt x))
    (h : step s = .next t) : t.readV x = s.dt := by
  obtain rfl := eq_endStep_of_step hd (exec_ldVxDt x s.beginStep) h
  simp

/-- A step of FX07 ticks DT. -/
theorem dt_of_step_ldVxDt {x : Reg} {s t : State} (hd : decodeWord s.fetch = .ok (.ldVxDt x))
    (h : step s = .next t) : t.dt = tickTimer s.dt := by
  obtain rfl := eq_endStep_of_step hd (exec_ldVxDt x s.beginStep) h
  rfl

/-- Settles O41: FX07 is the encoding, and LD writes DT as a result without a flag; the tick then takes 1 off a DT above
0, so the value read is 1 more than what is left. -/
theorem readDelayTimer : Obligations.ReadDelayTimer := by
  unfold Obligations.ReadDelayTimer
  refine ⟨fun x s => ⟨Laws.RoundTrip.ldVxDt x, s.result_spec x s.dt⟩, fun x s t hd h => ?_⟩
  have hread : t.readV x = s.dt := readV_of_step_ldVxDt hd h
  refine ⟨hread, fun hpos => ?_⟩
  rw [hread, dt_of_step_ldVxDt hd h, toNat_tickTimer]
  bv_omega

/-! ## LD DT, Vx -/

theorem exec_ldDtVx (x : Reg) (s : State) : exec (.ldDtVx x) s = .next (s.writeDT (s.readV x)).advance2 := rfl

/-- A step of FX15 leaves DT at the tick of Vx. -/
theorem dt_of_step_ldDtVx {x : Reg} {s t : State} (hd : decodeWord s.fetch = .ok (.ldDtVx x))
    (h : step s = .next t) : t.dt = tickTimer (s.readV x) := by
  obtain rfl := eq_endStep_of_step hd (exec_ldDtVx x s.beginStep) h
  rfl

/-- Settles O42: FX15 is the encoding; what the jump to the next instruction keeps of the state with the new DT, that
state has from `s`; the step's tick takes DT to Vx - 1, and a following FX07 reads DT before its own tick. -/
theorem setDelayTimer : Obligations.SetDelayTimer := by
  unfold Obligations.SetDelayTimer
  refine ⟨fun x s => ?_, fun x s t hd h => ?_⟩
  · obtain ⟨⟨hregs, hstack, -, hscreen, hmem, hinputs, hdiag⟩, hi⟩ :=
      (s.writeDT (s.readV x)).jumpTo_sameButRegs (s.pc + 2#16)
    exact ⟨Laws.RoundTrip.ldDtVx x, _, exec_ldDtVx x s, rfl, rfl, rfl, hregs, hi, hstack, hscreen, hmem, hinputs, hdiag⟩
  · have hdt : t.dt.toNat = (s.readV x).toNat - 1 := by rw [dt_of_step_ldDtVx hd h, toNat_tickTimer]
    refine ⟨hdt, fun y u hd' h' => ?_⟩
    rw [readV_of_step_ldVxDt hd' h', hdt]

end Sys2Proof.Machine
end

section
/-! PROOFS. The frame of an instruction that sets I and goes on, and LD I, addr (R220) and LD F, Vx (R224). -/

namespace Sys2Proof.Machine

/-- Setting I and going on to the next instruction keeps all but I and PC: reading registers or memory does not
involve I. -/
theorem State.writeI_advance2_sameButRegsI (s : State) (x : Word) : SameButRegsI [] s (s.writeI x).advance2 := by
  obtain ⟨⟨hregs, hstack, htimers, hscreen, hmem, hinputs, hdiag⟩, -⟩ :=
    (s.writeI x).jumpTo_sameButRegs (s.pc + 2#16)
  exact ⟨hregs, hstack, htimers, hscreen, hmem, hinputs, hdiag⟩

/-! ## LD I, addr -/

theorem exec_ldI (nnn : Addr) (s : State) : exec (.ldI nnn) s = .next (s.writeI (zext16 nnn)).advance2 := rfl

/-- Settles O45: ANNN is the encoding, and LD sets I to NNN zero-extended and goes on. -/
theorem setIndex : Obligations.SetIndex := by
  unfold Obligations.SetIndex
  intro nnn s
  refine ⟨Laws.RoundTrip.ldI nnn, _, exec_ldI nnn s, ?_, rfl, s.writeI_advance2_sameButRegsI _⟩
  rw [State.advance2_i, State.writeI_i, toNat_zext16]

/-! ## LD F, Vx -/

theorem exec_ldF (x : Reg) (s : State) : exec (.ldF x) s = .next (s.writeI (glyphAddr (s.readV x))).advance2 := rfl

/-- Five times a byte fits in 16 bits, so the glyph address is the exact product. -/
theorem toNat_glyphAddr (x : Byte) : (glyphAddr x).toNat = x.toNat * 5 := by
  have hfits : x.toNat * 5 < 2 ^ 16 := by omega
  exact (BitVec.toNat_ofNat _ _).trans (Nat.mod_eq_of_lt hfits)

/-- Settles O47: FX29 is the encoding, and LD F sets I to the glyph address and goes on; a byte is at most 255, so the
address is at most 1275. -/
theorem indexToGlyph : Obligations.IndexToGlyph := by
  unfold Obligations.IndexToGlyph
  intro x s
  have hi : (s.writeI (glyphAddr (s.readV x))).advance2.i.toNat = (s.readV x).toNat * 5 := by
    rw [State.advance2_i, State.writeI_i, toNat_glyphAddr]
  refine ⟨Laws.RoundTrip.ldF x, _, exec_ldF x s, hi, ?_, rfl, s.writeI_advance2_sameButRegsI _⟩
  have hbyte : (s.readV x).toNat < 256 := (s.readV x).isLt
  omega

end Sys2Proof.Machine
end

section
/-! PROOFS. The decoder against the encoder (R91-R97): each word has one instruction at most, and each instruction one
word. -/

namespace Sys2Proof

/-- Decoding an instruction's word gives the instruction, whichever it is. -/
theorem decodeWord_encode (i : Instr) : decodeWord (encode i) = .ok i := by
  cases i with
  | cls => exact Laws.RoundTrip.cls
  | ret => exact Laws.RoundTrip.ret
  | jp nnn => exact Laws.RoundTrip.jp nnn
  | call nnn => exact Laws.RoundTrip.call nnn
  | seImm x nn => exact Laws.RoundTrip.seImm x nn
  | sneImm x nn => exact Laws.RoundTrip.sneImm x nn
  | seReg x y => exact Laws.RoundTrip.seReg x y
  | ldImm x nn => exact Laws.RoundTrip.ldImm x nn
  | addImm x nn => exact Laws.RoundTrip.addImm x nn
  | ldReg x y => exact Laws.RoundTrip.ldReg x y
  | orReg x y => exact Laws.RoundTrip.orReg x y
  | andReg x y => exact Laws.RoundTrip.andReg x y
  | xorReg x y => exact Laws.RoundTrip.xorReg x y
  | addReg x y => exact Laws.RoundTrip.addReg x y
  | subReg x y => exact Laws.RoundTrip.subReg x y
  | shr x y => exact Laws.RoundTrip.shr x y
  | subn x y => exact Laws.RoundTrip.subn x y
  | shl x y => exact Laws.RoundTrip.shl x y
  | sneReg x y => exact Laws.RoundTrip.sneReg x y
  | ldI nnn => exact Laws.RoundTrip.ldI nnn
  | jpV0 nnn => exact Laws.RoundTrip.jpV0 nnn
  | rnd x nn => exact Laws.RoundTrip.rnd x nn
  | drw x y n => exact Laws.RoundTrip.drw x y n
  | skp x => exact Laws.RoundTrip.skp x
  | sknp x => exact Laws.RoundTrip.sknp x
  | ldVxDt x => exact Laws.RoundTrip.ldVxDt x
  | ldVxK x => exact Laws.RoundTrip.ldVxK x
  | ldDtVx x => exact Laws.RoundTrip.ldDtVx x
  | ldStVx x => exact Laws.RoundTrip.ldStVx x
  | addI x => exact Laws.RoundTrip.addI x
  | ldF x => exact Laws.RoundTrip.ldF x
  | ldB x => exact Laws.RoundTrip.ldB x
  | ldMemVx x => exact Laws.RoundTrip.ldMemVx x
  | ldVxMem x => exact Laws.RoundTrip.ldVxMem x

section
variable {w : Word} {i : Instr}

theorem encode_of_decode0 (h : decode0 w = .ok i) : encode i = w := by
  unfold decode0 at h
  split_ifs at h with hcls hret
  · cases h; exact hcls.symm
  · cases h; exact hret.symm

/-- Family 8: the sub-code N and the operand fields make up the word again. -/
theorem encode_of_decode8 (hF : (fieldF w).toNat = 0x8) (h : decode8 w = .ok i) : encode i = w := by
  unfold decode8 at h
  split at h <;> rename_i hN <;> cases h <;> exact wordXYN_fields hF hN

/-- Family E: the sub-code NN and X make up the word again. -/
theorem encode_of_decodeE (hF : (fieldF w).toNat = 0xE) (h : decodeE w = .ok i) : encode i = w := by
  unfold decodeE at h
  split at h <;> rename_i hNN <;> cases h <;> exact wordXNN_fields hF hNN

/-- Family F: the sub-code NN and X make up the word again. -/
theorem encode_of_decodeF (hF : (fieldF w).toNat = 0xF) (h : decodeF w = .ok i) : encode i = w := by
  unfold decodeF at h
  split at h <;> rename_i hNN <;> cases h <;> exact wordXNN_fields hF hNN

/-- A family of layout XYN whose sub-code is N = 0. -/
theorem encode_of_ite_fieldN {f : Nibble} {j : Instr} {u : UnknownWord}
    (hj : encode j = wordXYN f (fieldX w) (fieldY w) 0#4) (hF : (fieldF w).toNat = f.toNat)
    (h : (if fieldN w = 0#4 then Except.ok j else .error u) = .ok i) : encode i = w := by
  split at h
  · next hN => cases h; rw [hj]; exact wordXYN_fields hF (congrArg _ hN)
  · cases h

/-- A decoded word is the word of the instruction decoded: the family, the sub-code and the operand fields make up the
word again. In the last arm the family is none of 0 to E, so it is F. -/
theorem encode_of_decodeWord (h : decodeWord w = .ok i) : encode i = w := by
  unfold decodeWord at h
  split at h
  case h_1 hF => exact encode_of_decode0 h
  case h_2 hF | h_3 hF | h_11 hF | h_12 hF => cases h; exact wordNNN_fields hF
  case h_4 hF | h_5 hF | h_7 hF | h_8 hF | h_13 hF => cases h; exact wordXNN_fields hF rfl
  case h_6 hF => exact encode_of_ite_fieldN (f := 0x5#4) rfl hF h
  case h_10 hF => exact encode_of_ite_fieldN (f := 0x9#4) rfl hF h
  case h_9 hF => exact encode_of_decode8 hF h
  case h_14 hF => cases h; exact wordXYN_fields hF rfl
  case h_15 hF => exact encode_of_decodeE hF h
  case h_16 =>
    have hF : (fieldF w).toNat = 0xF := by have := (fieldF w).isLt; grind
    exact encode_of_decodeF hF h

theorem decodeWord_eq_ok_iff : decodeWord w = .ok i ↔ encode i = w :=
  ⟨encode_of_decodeWord, fun h => h ▸ decodeWord_encode i⟩

end

/-- Settles O2: the two directions of the round trip; on bytes, a word's two bytes decode as the word does. -/
theorem decodeEncodeAgree : Obligations.DecodeEncodeAgree := by
  unfold Obligations.DecodeEncodeAgree
  refine ⟨fun w i => decodeWord_eq_ok_iff, fun i rest => ?_, Instr.wellFormed_all⟩
  have h := decodeBytes_of_word (encode i) rest
  rwa [decodeWord_encode] at h

end Sys2Proof
end

section
/-! PROOFS. R96's table against the decoder, and the words outside it (R98). -/

namespace Sys2Proof

/-! ## What a row of the table selects -/

theorem and_F (f : Nibble) : f &&& 0xF#4 = f := BitVec.and_allOnes

theorem regBits_and_zero (r : Reg) : regBits r &&& regBits 0 = regBits 0 := BitVec.and_zero

section
variable (w : Word)

/-- The masks are layouts too, all ones in the fields they keep and all zeros in the others. -/
theorem and_F000 : w &&& 0xF000#16 = wordNNN (fieldF w) 0#12 := calc
  _ = wordNNN (fieldF w) (fieldNNN w) &&& wordNNN 0xF#4 0#12 := by rw [wordNNN_fields rfl]; rfl
  _ = _ := by rw [wordNNN, wordNNN, wordNNN, BitVec.and_append, and_F, BitVec.and_zero]

theorem and_F00F : w &&& 0xF00F#16 = wordXYN (fieldF w) 0 0 (fieldN w) := calc
  _ = wordXYN (fieldF w) (fieldX w) (fieldY w) (fieldN w) &&& wordXYN 0xF#4 0 0 0xF#4 := by
    rw [wordXYN_fields rfl rfl]; rfl
  _ = _ := by
    rw [wordXYN, wordXYN, wordXYN, BitVec.and_append, BitVec.and_append, BitVec.and_append, and_F, and_F,
      regBits_and_zero, regBits_and_zero]

theorem and_F0FF : w &&& 0xF0FF#16 = wordXNN (fieldF w) 0 (fieldNN w) := calc
  _ = wordXNN (fieldF w) (fieldX w) (fieldNN w) &&& wordXNN 0xF#4 0 0xFF#8 := by
    rw [wordXNN_fields rfl rfl]; rfl
  _ = _ := by
    have hNN : fieldNN w &&& 0xFF#8 = fieldNN w := BitVec.and_allOnes
    rw [wordXNN, wordXNN, wordXNN, BitVec.and_append, BitVec.and_append, and_F, regBits_and_zero, hNN]

end

section
variable {w : Word}

theorem selects_word {p : Word} : (⟨p, 0xFFFF⟩ : OpRow).selects w = true ↔ w = p := by
  have hmask : w &&& 0xFFFF#16 = w := BitVec.and_allOnes
  rw [OpRow.selects, decide_eq_true_iff]
  exact iff_of_eq (congrArg (· = p) hmask)

theorem selects_family {f : Nibble} : (⟨wordNNN f 0#12, 0xF000#16⟩ : OpRow).selects w = true ↔ fieldF w = f := by
  simp only [OpRow.selects, decide_eq_true_iff, and_F000]
  exact ⟨fun h => by simpa using congrArg fieldF h, fun h => h ▸ rfl⟩

theorem selects_family_N {f n : Nibble} :
    (⟨wordXYN f 0 0 n, 0xF00F#16⟩ : OpRow).selects w = true ↔ fieldF w = f ∧ fieldN w = n := by
  simp only [OpRow.selects, decide_eq_true_iff, and_F00F]
  refine ⟨fun h => ⟨?_, ?_⟩, fun ⟨hf, hn⟩ => hf ▸ hn ▸ rfl⟩
  · simpa using congrArg fieldF h
  · simpa using congrArg fieldN h

theorem selects_family_NN {f : Nibble} {nn : Byte} :
    (⟨wordXNN f 0 nn, 0xF0FF#16⟩ : OpRow).selects w = true ↔ fieldF w = f ∧ fieldNN w = nn := by
  simp only [OpRow.selects, decide_eq_true_iff, and_F0FF]
  refine ⟨fun h => ⟨?_, ?_⟩, fun ⟨hf, hn⟩ => hf ▸ hn ▸ rfl⟩
  · simpa using congrArg fieldF h
  · simpa using congrArg fieldNN h

theorem wordNNN_of_family {f : Nibble} (h : fieldF w = f) : wordNNN f (fieldNNN w) = w :=
  wordNNN_fields (congrArg BitVec.toNat h)

theorem wordXNN_of_family {f : Nibble} {nn : Byte} (h : fieldF w = f ∧ fieldNN w = nn) :
    wordXNN f (fieldX w) nn = w :=
  wordXNN_fields (congrArg BitVec.toNat h.1) (congrArg BitVec.toNat h.2)

theorem wordXYN_of_family {f n : Nibble} (h : fieldF w = f ∧ fieldN w = n) :
    wordXYN f (fieldX w) (fieldY w) n = w :=
  wordXYN_fields (congrArg BitVec.toNat h.1) (congrArg BitVec.toNat h.2)

/-- A word that a row selects is the word of an instruction of that row: the row's constructor on the word's fields. -/
theorem exists_encode_of_selects {k : Nat} {r : OpRow} (hr : opTable[k]? = some r) (h : r.selects w = true) :
    ∃ i : Instr, encode i = w ∧ i.asmLine.row = k + 1 := by
  match k, hr with
  | 0, rfl => exact ⟨.cls, (selects_word.1 h).symm, rfl⟩
  | 1, rfl => exact ⟨.ret, (selects_word.1 h).symm, rfl⟩
  | 2, rfl => exact ⟨.jp (fieldNNN w), wordNNN_of_family (selects_family.1 h), rfl⟩
  | 3, rfl => exact ⟨.call (fieldNNN w), wordNNN_of_family (selects_family.1 h), rfl⟩
  | 4, rfl => exact ⟨.seImm (fieldX w) (fieldNN w), wordXNN_of_family ⟨selects_family.1 h, rfl⟩, rfl⟩
  | 5, rfl => exact ⟨.sneImm (fieldX w) (fieldNN w), wordXNN_of_family ⟨selects_family.1 h, rfl⟩, rfl⟩
  | 6, rfl => exact ⟨.seReg (fieldX w) (fieldY w), wordXYN_of_family (selects_family_N.1 h), rfl⟩
  | 7, rfl => exact ⟨.ldImm (fieldX w) (fieldNN w), wordXNN_of_family ⟨selects_family.1 h, rfl⟩, rfl⟩
  | 8, rfl => exact ⟨.addImm (fieldX w) (fieldNN w), wordXNN_of_family ⟨selects_family.1 h, rfl⟩, rfl⟩
  | 9, rfl => exact ⟨.ldReg (fieldX w) (fieldY w), wordXYN_of_family (selects_family_N.1 h), rfl⟩
  | 10, rfl => exact ⟨.orReg (fieldX w) (fieldY w), wordXYN_of_family (selects_family_N.1 h), rfl⟩
  | 11, rfl => exact ⟨.andReg (fieldX w) (fieldY w), wordXYN_of_family (selects_family_N.1 h), rfl⟩
  | 12, rfl => exact ⟨.xorReg (fieldX w) (fieldY w), wordXYN_of_family (selects_family_N.1 h), rfl⟩
  | 13, rfl => exact ⟨.addReg (fieldX w) (fieldY w), wordXYN_of_family (selects_family_N.1 h), rfl⟩
  | 14, rfl => exact ⟨.subReg (fieldX w) (fieldY w), wordXYN_of_family (selects_family_N.1 h), rfl⟩
  | 15, rfl => exact ⟨.shr (fieldX w) (fieldY w), wordXYN_of_family (selects_family_N.1 h), rfl⟩
  | 16, rfl => exact ⟨.subn (fieldX w) (fieldY w), wordXYN_of_family (selects_family_N.1 h), rfl⟩
  | 17, rfl => exact ⟨.shl (fieldX w) (fieldY w), wordXYN_of_family (selects_family_N.1 h), rfl⟩
  | 18, rfl => exact ⟨.sneReg (fieldX w) (fieldY w), wordXYN_of_family (selects_family_N.1 h), rfl⟩
  | 19, rfl => exact ⟨.ldI (fieldNNN w), wordNNN_of_family (selects_family.1 h), rfl⟩
  | 20, rfl => exact ⟨.jpV0 (fieldNNN w), wordNNN_of_family (selects_family.1 h), rfl⟩
  | 21, rfl => exact ⟨.rnd (fieldX w) (fieldNN w), wordXNN_of_family ⟨selects_family.1 h, rfl⟩, rfl⟩
  | 22, rfl => exact ⟨.drw (fieldX w) (fieldY w) (fieldN w), wordXYN_of_family ⟨selects_family.1 h, rfl⟩, rfl⟩
  | 23, rfl => exact ⟨.skp (fieldX w), wordXNN_of_family (selects_family_NN.1 h), rfl⟩
  | 24, rfl => exact ⟨.sknp (fieldX w), wordXNN_of_family (selects_family_NN.1 h), rfl⟩
  | 25, rfl => exact ⟨.ldVxDt (fieldX w), wordXNN_of_family (selects_family_NN.1 h), rfl⟩
  | 26, rfl => exact ⟨.ldVxK (fieldX w), wordXNN_of_family (selects_family_NN.1 h), rfl⟩
  | 27, rfl => exact ⟨.ldDtVx (fieldX w), wordXNN_of_family (selects_family_NN.1 h), rfl⟩
  | 28, rfl => exact ⟨.ldStVx (fieldX w), wordXNN_of_family (selects_family_NN.1 h), rfl⟩
  | 29, rfl => exact ⟨.addI (fieldX w), wordXNN_of_family (selects_family_NN.1 h), rfl⟩
  | 30, rfl => exact ⟨.ldF (fieldX w), wordXNN_of_family (selects_family_NN.1 h), rfl⟩
  | 31, rfl => exact ⟨.ldB (fieldX w), wordXNN_of_family (selects_family_NN.1 h), rfl⟩
  | 32, rfl => exact ⟨.ldMemVx (fieldX w), wordXNN_of_family (selects_family_NN.1 h), rfl⟩
  | 33, rfl => exact ⟨.ldVxMem (fieldX w), wordXNN_of_family (selects_family_NN.1 h), rfl⟩

/-- An instruction's word is selected by the instruction's row. -/
theorem exists_selects_encode (i : Instr) :
    ∃ k r, i.asmLine.row = k + 1 ∧ opTable[k]? = some r ∧ r.selects (encode i) = true := by
  cases i with
  | cls | ret => exact ⟨_, _, rfl, rfl, selects_word.2 rfl⟩
  | jp nnn | call nnn | ldI nnn | jpV0 nnn => exact ⟨_, _, rfl, rfl, selects_family.2 (fieldF_wordNNN _ nnn)⟩
  | seImm x nn | sneImm x nn | ldImm x nn | addImm x nn | rnd x nn =>
    exact ⟨_, _, rfl, rfl, selects_family.2 (fieldF_wordXNN _ x nn)⟩
  | drw x y n => exact ⟨_, _, rfl, rfl, selects_family.2 (fieldF_wordXYN _ n x y)⟩
  | seReg x y | ldReg x y | orReg x y | andReg x y | xorReg x y | addReg x y | subReg x y | shr x y | subn x y | shl x y
  | sneReg x y => exact ⟨_, _, rfl, rfl, selects_family_N.2 ⟨fieldF_wordXYN _ _ x y, fieldN_wordXYN _ _ x y⟩⟩
  | skp x | sknp x | ldVxDt x | ldVxK x | ldDtVx x | ldStVx x | addI x | ldF x | ldB x | ldMemVx x | ldVxMem x =>
    exact ⟨_, _, rfl, rfl, selects_family_NN.2 ⟨fieldF_wordXNN _ x _, fieldNN_wordXNN _ x _⟩⟩

theorem decodes_to_row_iff_selects {k : Nat} :
    (∃ i, decodeWord w = .ok i ∧ i.asmLine.row = k + 1) ↔ ∃ r, opTable[k]? = some r ∧ r.selects w = true := by
  constructor
  · rintro ⟨i, hd, hk⟩
    obtain rfl := encode_of_decodeWord hd
    obtain ⟨k', r, hk', hr, hsel⟩ := exists_selects_encode i
    obtain rfl : k = k' := by omega
    exact ⟨r, hr, hsel⟩
  · rintro ⟨r, hr, hsel⟩
    obtain ⟨i, rfl, hk⟩ := exists_encode_of_selects hr hsel
    exact ⟨i, decodeWord_encode i, hk⟩

end

/-- Settles O3: a row's instruction on the word's fields has that word, and an instruction's word is selected by its row;
two rows that select one word are rows of the one instruction it decodes to. -/
theorem decoderFollowsOpcodeTable : Obligations.DecoderFollowsOpcodeTable := by
  unfold Obligations.DecoderFollowsOpcodeTable
  refine ⟨fun w k => decodes_to_row_iff_selects, fun w j k q r hq hr hqw hrw => ?_⟩
  obtain ⟨i, hi, hj⟩ := decodes_to_row_iff_selects.2 ⟨q, hq, hqw⟩
  obtain ⟨i', hi', hk⟩ := decodes_to_row_iff_selects.2 ⟨r, hr, hrw⟩
  obtain rfl : i = i' := Except.ok.inj (hi.symm.trans hi')
  omega

/-- Settles O1 by running the decoder on each word. -/
theorem sampleWordsDecode : Obligations.SampleWordsDecode := by
  unfold Obligations.SampleWordsDecode
  decide

end Sys2Proof
end

section
/-! PROOFS. The words that decode to no instruction (R98). -/

namespace Sys2Proof

section
variable {w : Word} {u : UnknownWord}

theorem decode0_eq_error_iff : decode0 w = .error u ↔ u = .family0 ∧ w.toNat ≠ 0x00E0 ∧ w.toNat ≠ 0x00EE := by
  unfold decode0
  split_ifs with hcls hret
  · simp [hcls]
  · simp [hret]
  · have hcls' : w.toNat ≠ 0x00E0 := fun e => hcls (BitVec.eq_of_toNat_eq e)
    have hret' : w.toNat ≠ 0x00EE := fun e => hret (BitVec.eq_of_toNat_eq e)
    simp [hcls', hret', eq_comm]

theorem ite_fieldN_eq_error_iff {j : Instr} {u' : UnknownWord} :
    (if fieldN w = 0#4 then Except.ok j else .error u') = .error u ↔ u = u' ∧ w.toNat % 16 ≠ 0 := by
  rw [← toNat_fieldN]
  split
  · next hN => simp [hN]
  · next hN =>
    have hN' : (fieldN w).toNat ≠ 0 := fun e => hN (BitVec.eq_of_toNat_eq e)
    simp [hN', eq_comm]

/-- Of the sixteen values of N, seven are no sub-code. -/
theorem decode8_eq_error_iff :
    decode8 w = .error u ↔ u = .family8 ∧ w.toNat % 16 ∈ [8, 9, 0xA, 0xB, 0xC, 0xD, 0xF] := by
  have hlt : (fieldN w).toNat < 16 := (fieldN w).isLt
  rw [← toNat_fieldN]
  unfold decode8
  generalize (fieldN w).toNat = n at hlt
  split
  case h_10 =>
    have hn : n ∈ [8, 9, 0xA, 0xB, 0xC, 0xD, 0xF] := by simp only [List.mem_cons, List.not_mem_nil]; grind
    simp [hn, eq_comm]
  all_goals simp

theorem decodeE_eq_error_iff : decodeE w = .error u ↔ u = .familyE ∧ w.toNat % 256 ∉ [0x9E, 0xA1] := by
  rw [← toNat_fieldNN]
  unfold decodeE
  split
  case h_3 => simp_all [eq_comm]
  all_goals simp_all

theorem decodeF_eq_error_iff :
    decodeF w = .error u ↔
      u = .familyF ∧ w.toNat % 256 ∉ [0x07, 0x0A, 0x15, 0x18, 0x1E, 0x29, 0x33, 0x55, 0x65] := by
  rw [← toNat_fieldNN]
  unfold decodeF
  split
  case h_10 => simp_all [eq_comm]
  all_goals simp_all

end

/-- Settles O4: an unknown word comes from one of the six families with unknown words, and each of these says which of its
words are unknown. -/
theorem unknownWordsByFamily : Obligations.UnknownWordsByFamily := by
  unfold Obligations.UnknownWordsByFamily
  refine fun w u => ⟨fun h => ?_, fun h => ?_⟩
  · unfold decodeWord at h
    simp only [toNat_fieldF] at h
    split at h
    case h_1 hF => obtain ⟨rfl, hne⟩ := decode0_eq_error_iff.1 h; exact ⟨by omega, hne⟩
    case h_6 hF => obtain ⟨rfl, hN⟩ := ite_fieldN_eq_error_iff.1 h; exact ⟨hF, hN⟩
    case h_9 hF => obtain ⟨rfl, hN⟩ := decode8_eq_error_iff.1 h; exact ⟨hF, hN⟩
    case h_10 hF => obtain ⟨rfl, hN⟩ := ite_fieldN_eq_error_iff.1 h; exact ⟨hF, hN⟩
    case h_15 hF => obtain ⟨rfl, hNN⟩ := decodeE_eq_error_iff.1 h; exact ⟨hF, hNN⟩
    case h_16 =>
      obtain ⟨rfl, hNN⟩ := decodeF_eq_error_iff.1 h
      have hlt := w.isLt
      exact ⟨by grind, hNN⟩
    all_goals cases h
  · cases u with
    | family0 =>
      obtain ⟨hlt, hne⟩ := h
      have hF : w.toNat / 4096 = 0 := by omega
      simp only [decodeWord, toNat_fieldF, hF]
      exact decode0_eq_error_iff.2 ⟨rfl, hne⟩
    | family5 | family9 =>
      simp only [decodeWord, toNat_fieldF, h.1]
      exact ite_fieldN_eq_error_iff.2 ⟨rfl, h.2⟩
    | family8 =>
      simp only [decodeWord, toNat_fieldF, h.1]
      exact decode8_eq_error_iff.2 ⟨rfl, h.2⟩
    | familyE =>
      simp only [decodeWord, toNat_fieldF, h.1]
      exact decodeE_eq_error_iff.2 ⟨rfl, h.2⟩
    | familyF =>
      simp only [decodeWord, toNat_fieldF, h.1]
      exact decodeF_eq_error_iff.2 ⟨rfl, h.2⟩

end Sys2Proof
end

section
/-! PROOFS. Assembler lines against instructions (R100, R101). -/

namespace Sys2Proof

/-! ## Operands that fit are the operands of an instruction -/

theorem operandsFit_nil {ns : List Nat} (h : operandsFit [] ns = true) : ns = [] := by
  cases ns with
  | nil => rfl
  | cons n ns => cases h

/-- Operands that fit begin with one below its kind's bound. -/
theorem exists_cons_of_operandsFit {k : OperandKind} {ks : List OperandKind} {ns : List Nat}
    (h : operandsFit (k :: ks) ns = true) : ∃ n < k.bound, ∃ ms, ns = n :: ms ∧ operandsFit ks ms = true := by
  cases ns with
  | nil => cases h
  | cons n ms =>
    obtain ⟨hn, hms⟩ := (operandsFit_cons k ks n ms).1 h
    exact ⟨n, hn, ms, rfl, hms⟩

theorem exists_reg_of_operandsFit {ks : List OperandKind} {ns : List Nat} (h : operandsFit (.reg :: ks) ns = true) :
    ∃ (x : Reg) (ms : List Nat), ns = x.val :: ms ∧ operandsFit ks ms = true := by
  obtain ⟨n, hn, ms, rfl, hms⟩ := exists_cons_of_operandsFit h
  exact ⟨⟨n, hn⟩, ms, rfl, hms⟩

theorem eq_addr_of_operandsFit {ns : List Nat} (h : operandsFit [.addr] ns = true) : ∃ a : Addr, ns = [a.toNat] := by
  obtain ⟨n, hn, ms, rfl, hms⟩ := exists_cons_of_operandsFit h
  exact ⟨⟨⟨n, hn⟩⟩, congrArg _ (operandsFit_nil hms)⟩

theorem eq_reg_of_operandsFit {ns : List Nat} (h : operandsFit [.reg] ns = true) : ∃ x : Reg, ns = [x.val] := by
  obtain ⟨x, ms, rfl, hms⟩ := exists_reg_of_operandsFit h
  exact ⟨x, congrArg _ (operandsFit_nil hms)⟩

theorem eq_regs_of_operandsFit {ns : List Nat} (h : operandsFit [.reg, .reg] ns = true) :
    ∃ x y : Reg, ns = [x.val, y.val] := by
  obtain ⟨x, ms, rfl, hms⟩ := exists_reg_of_operandsFit h
  obtain ⟨y, rfl⟩ := eq_reg_of_operandsFit hms
  exact ⟨x, y, rfl⟩

theorem eq_regByte_of_operandsFit {ns : List Nat} (h : operandsFit [.reg, .byte] ns = true) :
    ∃ (x : Reg) (b : Byte), ns = [x.val, b.toNat] := by
  obtain ⟨x, ms, rfl, hms⟩ := exists_reg_of_operandsFit h
  obtain ⟨n, hn, ls, rfl, hls⟩ := exists_cons_of_operandsFit hms
  exact ⟨x, ⟨⟨n, hn⟩⟩, congrArg (x.val :: n :: ·) (operandsFit_nil hls)⟩

theorem eq_regsNibble_of_operandsFit {ns : List Nat} (h : operandsFit [.reg, .reg, .nibble] ns = true) :
    ∃ (x y : Reg) (n : Nibble), ns = [x.val, y.val, n.toNat] := by
  obtain ⟨x, ms, rfl, hms⟩ := exists_reg_of_operandsFit h
  obtain ⟨y, ls, rfl, hls⟩ := exists_reg_of_operandsFit hms
  obtain ⟨n, hn, ks, rfl, hks⟩ := exists_cons_of_operandsFit hls
  exact ⟨x, y, ⟨⟨n, hn⟩⟩, congrArg (x.val :: y.val :: n :: ·) (operandsFit_nil hks)⟩

/-- A well-formed line is the line of an instruction: the row's constructor on the operands given. -/
theorem exists_asmLine_eq {a : AsmLine} (h : a.wellFormed = true) :
    ∃ i : Instr, a = i.asmLine := by
  obtain ⟨row, ns⟩ := a
  match row, h with
  | 1, h => obtain rfl := operandsFit_nil h; exact ⟨.cls, rfl⟩
  | 2, h => obtain rfl := operandsFit_nil h; exact ⟨.ret, rfl⟩
  | 3, h => obtain ⟨a, rfl⟩ := eq_addr_of_operandsFit h; exact ⟨.jp a, rfl⟩
  | 4, h => obtain ⟨a, rfl⟩ := eq_addr_of_operandsFit h; exact ⟨.call a, rfl⟩
  | 5, h => obtain ⟨x, b, rfl⟩ := eq_regByte_of_operandsFit h; exact ⟨.seImm x b, rfl⟩
  | 6, h => obtain ⟨x, b, rfl⟩ := eq_regByte_of_operandsFit h; exact ⟨.sneImm x b, rfl⟩
  | 7, h => obtain ⟨x, y, rfl⟩ := eq_regs_of_operandsFit h; exact ⟨.seReg x y, rfl⟩
  | 8, h => obtain ⟨x, b, rfl⟩ := eq_regByte_of_operandsFit h; exact ⟨.ldImm x b, rfl⟩
  | 9, h => obtain ⟨x, b, rfl⟩ := eq_regByte_of_operandsFit h; exact ⟨.addImm x b, rfl⟩
  | 10, h => obtain ⟨x, y, rfl⟩ := eq_regs_of_operandsFit h; exact ⟨.ldReg x y, rfl⟩
  | 11, h => obtain ⟨x, y, rfl⟩ := eq_regs_of_operandsFit h; exact ⟨.orReg x y, rfl⟩
  | 12, h => obtain ⟨x, y, rfl⟩ := eq_regs_of_operandsFit h; exact ⟨.andReg x y, rfl⟩
  | 13, h => obtain ⟨x, y, rfl⟩ := eq_regs_of_operandsFit h; exact ⟨.xorReg x y, rfl⟩
  | 14, h => obtain ⟨x, y, rfl⟩ := eq_regs_of_operandsFit h; exact ⟨.addReg x y, rfl⟩
  | 15, h => obtain ⟨x, y, rfl⟩ := eq_regs_of_operandsFit h; exact ⟨.subReg x y, rfl⟩
  | 16, h => obtain ⟨x, y, rfl⟩ := eq_regs_of_operandsFit h; exact ⟨.shr x y, rfl⟩
  | 17, h => obtain ⟨x, y, rfl⟩ := eq_regs_of_operandsFit h; exact ⟨.subn x y, rfl⟩
  | 18, h => obtain ⟨x, y, rfl⟩ := eq_regs_of_operandsFit h; exact ⟨.shl x y, rfl⟩
  | 19, h => obtain ⟨x, y, rfl⟩ := eq_regs_of_operandsFit h; exact ⟨.sneReg x y, rfl⟩
  | 20, h => obtain ⟨a, rfl⟩ := eq_addr_of_operandsFit h; exact ⟨.ldI a, rfl⟩
  | 21, h => obtain ⟨a, rfl⟩ := eq_addr_of_operandsFit h; exact ⟨.jpV0 a, rfl⟩
  | 22, h => obtain ⟨x, b, rfl⟩ := eq_regByte_of_operandsFit h; exact ⟨.rnd x b, rfl⟩
  | 23, h => obtain ⟨x, y, n, rfl⟩ := eq_regsNibble_of_operandsFit h; exact ⟨.drw x y n, rfl⟩
  | 24, h => obtain ⟨x, rfl⟩ := eq_reg_of_operandsFit h; exact ⟨.skp x, rfl⟩
  | 25, h => obtain ⟨x, rfl⟩ := eq_reg_of_operandsFit h; exact ⟨.sknp x, rfl⟩
  | 26, h => obtain ⟨x, rfl⟩ := eq_reg_of_operandsFit h; exact ⟨.ldVxDt x, rfl⟩
  | 27, h => obtain ⟨x, rfl⟩ := eq_reg_of_operandsFit h; exact ⟨.ldVxK x, rfl⟩
  | 28, h => obtain ⟨x, rfl⟩ := eq_reg_of_operandsFit h; exact ⟨.ldDtVx x, rfl⟩
  | 29, h => obtain ⟨x, rfl⟩ := eq_reg_of_operandsFit h; exact ⟨.ldStVx x, rfl⟩
  | 30, h => obtain ⟨x, rfl⟩ := eq_reg_of_operandsFit h; exact ⟨.addI x, rfl⟩
  | 31, h => obtain ⟨x, rfl⟩ := eq_reg_of_operandsFit h; exact ⟨.ldF x, rfl⟩
  | 32, h => obtain ⟨x, rfl⟩ := eq_reg_of_operandsFit h; exact ⟨.ldB x, rfl⟩
  | 33, h => obtain ⟨x, rfl⟩ := eq_reg_of_operandsFit h; exact ⟨.ldMemVx x, rfl⟩
  | 34, h => obtain ⟨x, rfl⟩ := eq_reg_of_operandsFit h; exact ⟨.ldVxMem x, rfl⟩

/-! ## The line of an instruction stands for it -/

theorem withAddr_toNat (f : Addr → Instr) (a : Addr) : withAddr f [a.toNat] = some (f a) := by
  rw [withAddr, BitVec.ofNat_toNat, BitVec.setWidth_eq]

theorem withRegByte_toNat (f : Reg → Byte → Instr) (x : Reg) (b : Byte) :
    withRegByte f [x.val, b.toNat] = some (f x b) := by
  rw [withRegByte, regOfNat_val, BitVec.ofNat_toNat, BitVec.setWidth_eq]

theorem withRegs_val (f : Reg → Reg → Instr) (x y : Reg) : withRegs f [x.val, y.val] = some (f x y) := by
  rw [withRegs, regOfNat_val, regOfNat_val]

theorem withRegsNibble_toNat (f : Reg → Reg → Nibble → Instr) (x y : Reg) (n : Nibble) :
    withRegsNibble f [x.val, y.val, n.toNat] = some (f x y n) := by
  rw [withRegsNibble, regOfNat_val, regOfNat_val, BitVec.ofNat_toNat, BitVec.setWidth_eq]

theorem withReg_val (f : Reg → Instr) (x : Reg) : withReg f [x.val] = some (f x) := by
  rw [withReg, regOfNat_val]

theorem instrOfRow_asmLine (i : Instr) : instrOfRow i.asmLine.row i.asmLine.operands = some i := by
  cases i with
  | cls | ret => rfl
  | jp a | call a | ldI a | jpV0 a => exact withAddr_toNat _ a
  | seImm x b | sneImm x b | ldImm x b | addImm x b | rnd x b => exact withRegByte_toNat _ x b
  | seReg x y | ldReg x y | orReg x y | andReg x y | xorReg x y | addReg x y | subReg x y | shr x y | subn x y | shl x y
  | sneReg x y => exact withRegs_val _ x y
  | drw x y n => exact withRegsNibble_toNat _ x y n
  | skp x | sknp x | ldVxDt x | ldVxK x | ldDtVx x | ldStVx x | addI x | ldF x | ldB x | ldMemVx x | ldVxMem x =>
    exact withReg_val _ x

theorem AsmLine.instr_asmLine (i : Instr) : i.asmLine.instr = some i := by
  have hwf : i.asmLine.wellFormed = true := i.wellFormed_all
  rw [AsmLine.instr, if_pos hwf, instrOfRow_asmLine]

theorem AsmLine.instr_eq_some_iff {a : AsmLine} {i : Instr} : a.instr = some i ↔ i.asmLine = a := by
  refine ⟨fun h => ?_, fun h => h ▸ AsmLine.instr_asmLine i⟩
  by_cases hwf : a.wellFormed = true
  · obtain ⟨j, rfl⟩ := exists_asmLine_eq hwf
    rw [AsmLine.instr_asmLine] at h
    cases h; rfl
  · rw [AsmLine.instr, if_neg hwf] at h
    cases h

theorem AsmLine.isSome_instr (a : AsmLine) : a.instr.isSome = a.wellFormed := by
  cases hwf : a.wellFormed with
  | true =>
    obtain ⟨i, rfl⟩ := exists_asmLine_eq hwf
    rw [AsmLine.instr_asmLine]; rfl
  | false => rw [AsmLine.instr, hwf]; rfl

theorem asmLine_injective {i j : Instr} (h : i.asmLine = j.asmLine) : i = j :=
  Option.some.inj (by rw [← AsmLine.instr_asmLine i, h, AsmLine.instr_asmLine])

/-! ## Lines as written -/

/-- A row of two registers whose second is 0. -/
theorem asmLine_eq_zero_iff {f : Reg → Reg → Instr} {row : Nat} (hf : ∀ x y, (f x y).asmLine = ⟨row, [x.val, y.val]⟩)
    (hk : operandKinds row = some [.reg, .reg]) {i : Instr} {n : Nat} :
    i.asmLine = ⟨row, [n, 0]⟩ ↔ ∃ x : Reg, n = x.val ∧ i = f x 0 := by
  constructor
  · intro h
    have hwf : i.asmLine.wellFormed = true := i.wellFormed_all
    rw [h, AsmLine.wellFormed, hk] at hwf
    have hn : n < 16 := ((operandsFit_cons _ _ _ _).1 hwf).1
    exact ⟨⟨n, hn⟩, rfl, asmLine_injective (h.trans (hf ⟨n, hn⟩ 0).symm)⟩
  · rintro ⟨x, rfl, rfl⟩
    exact hf x 0

/-- The line that writes an instruction omits no operand. -/
theorem asmLine_ne_of_omitted {row : Nat} (hk : operandKinds row = some [.reg, .reg]) (i : Instr) (n : Nat) :
    i.asmLine ≠ ⟨row, [n]⟩ := by
  intro h
  have hwf : i.asmLine.wellFormed = true := i.wellFormed_all
  rw [h, AsmLine.wellFormed, hk] at hwf
  exact absurd ((operandsFit_cons _ _ _ _).1 hwf).2 nofun

theorem AsmLine.instr_filled_eq_some_iff {a : AsmLine} {i : Instr} :
    a.filled.instr = some i ↔
      i.asmLine = a ∨ ∃ x : Reg, (a = ⟨16, [x.val]⟩ ∧ i = .shr x 0) ∨ (a = ⟨18, [x.val]⟩ ∧ i = .shl x 0) := by
  rw [AsmLine.instr_eq_some_iff]
  obtain ⟨row, ns⟩ := a
  unfold AsmLine.filled
  split
  case h_1 n hrow hns =>
    cases hrow; cases hns
    rw [asmLine_eq_zero_iff (f := .shr) (fun _ _ => rfl) rfl]
    simp [asmLine_ne_of_omitted (row := 16) rfl]
  case h_2 n hrow hns =>
    cases hrow; cases hns
    rw [asmLine_eq_zero_iff (f := .shl) (fun _ _ => rfl) rfl]
    simp [asmLine_ne_of_omitted (row := 18) rfl]
  case h_3 h16 h18 =>
    refine ⟨.inl, ?_⟩
    rintro (h | ⟨x, ⟨ha, -⟩ | ⟨ha, -⟩⟩)
    · exact h
    · cases ha; exact (h16 _ rfl rfl).elim
    · cases ha; exact (h18 _ rfl rfl).elim

/-- Settles O5: the line that writes an instruction stands for it, a well-formed line is such a line, and filling in
changes only SHR Vx and SHL Vx. -/
theorem assemblerLineIsOneInstruction : Obligations.AssemblerLineIsOneInstruction := by
  unfold Obligations.AssemblerLineIsOneInstruction
  exact ⟨fun a i => AsmLine.instr_eq_some_iff, AsmLine.isSome_instr, fun a i => AsmLine.instr_filled_eq_some_iff⟩

end Sys2Proof
end

section
/-! PROOFS. What the execute phase of any instruction does to the parts of the state that few instructions touch, said
once: the timers and the `rnd` input, the keypad, memory, I, the call stack and the `diag` output. -/

namespace Sys2Proof.Machine

/-! ## The instructions with two outcomes -/

section
variable {s : State}

theorem exec_ret_of_pos (h : 0 < s.sp.val) : exec .ret s =
    .next ({ s with sp := ⟨s.sp.val - 1, by omega⟩ }.jumpTo (s.stack[s.sp.val - 1] + 2#16)) := by
  rw [exec, execRet, State.pop_of_pos s h]

theorem exec_ret_of_empty (h : s.sp.val = 0) :
    exec .ret s = .next (s.raiseDiag .stackUnderflow (encode .ret)) := by
  rw [exec, execRet, State.pop_of_empty s h]

theorem exec_call_of_lt (nnn : Addr) (h : s.sp.val < 16) : exec (.call nnn) s =
    .next ({ s with stack := s.stack.set s.sp.val s.pc h, sp := ⟨s.sp.val + 1, by omega⟩ }.jumpTo (zext16 nnn)) := by
  rw [exec, execCall, State.push_of_lt s _ h]

theorem exec_call_of_full (nnn : Addr) (h : s.sp.val = 16) :
    exec (.call nnn) s = .next (s.raiseDiag .stackOverflow (encode (.call nnn))) := by
  rw [exec, execCall, State.push_of_full s _ h]

theorem exec_ldVxK_of_some {x : Reg} {k : Fin 16} (h : s.lowestKey = some k) :
    exec (.ldVxK x) s = .next (s.writeV x (keyByte k)).advance2 := by
  rw [exec, execLdVxK, h]

theorem exec_ldVxK_of_none {x : Reg} (h : s.lowestKey = none) : exec (.ldVxK x) s = .next (s.jumpTo s.pc) := by
  rw [exec, execLdVxK, h]

theorem State.sp_lt_or_full (s : State) : s.sp.val < 16 ∨ s.sp.val = 16 := by omega

end

/-! ## The timers and the `rnd` input -/

/-- DT after an instruction that finds it at `d`. -/
def dtAfter (i : Instr) (s : State) (d : Byte) : Byte :=
  match i with
  | .ldDtVx x => s.readV x
  | _ => d

/-- ST after an instruction that finds it at `e`. -/
def stAfter (i : Instr) (s : State) (e : Byte) : Byte :=
  match i with
  | .ldStVx x => s.readV x
  | _ => e

/-- The state with other timers and another `rnd` input. -/
def State.withAside (s : State) (d e : Byte) (q : List Byte) (n : Nat) : State :=
  { s with dt := d, st := e, rndIn := q, draws := n }

/-- `o` and `o'` are the outcomes of `i` from `s` and from `s` with timers `d`, `e` and the `rnd` input `q`, `n`. Both
complete, and the second leaves what the first leaves, but for the timers and the `rnd` input. -/
def AsideFlow (i : Instr) (s : State) (d e : Byte) (q : List Byte) (n : Nat)
    (o o' : Host.Outcome State Fault Refusal) : Prop :=
  ∃ t, o = .next t ∧ o' = .next (t.withAside (dtAfter i s d) (stAfter i s e) q n)

section
variable {s : State} {d e : Byte} {q : List Byte} {n : Nat}

theorem exec_ret_aside : AsideFlow .ret s d e q n (exec .ret s) (exec .ret (s.withAside d e q n)) := by
  rcases Nat.eq_zero_or_pos s.sp.val with h | h
  · exact ⟨_, exec_ret_of_empty h, exec_ret_of_empty h⟩
  · exact ⟨_, exec_ret_of_pos h, exec_ret_of_pos (s := s.withAside d e q n) h⟩

theorem exec_call_aside (nnn : Addr) :
    AsideFlow (.call nnn) s d e q n (exec (.call nnn) s) (exec (.call nnn) (s.withAside d e q n)) := by
  rcases s.sp_lt_or_full with h | h
  · exact ⟨_, exec_call_of_lt nnn h, exec_call_of_lt (s := s.withAside d e q n) nnn h⟩
  · exact ⟨_, exec_call_of_full nnn h, exec_call_of_full nnn h⟩

theorem exec_ldVxK_aside (x : Reg) :
    AsideFlow (.ldVxK x) s d e q n (exec (.ldVxK x) s) (exec (.ldVxK x) (s.withAside d e q n)) := by
  have hk : (s.withAside d e q n).lowestKey = s.lowestKey := State.lowestKey_congr rfl
  cases h : s.lowestKey with
  | none => exact ⟨_, exec_ldVxK_of_none h, exec_ldVxK_of_none (hk.trans h)⟩
  | some k => exact ⟨_, exec_ldVxK_of_some h, exec_ldVxK_of_some (hk.trans h)⟩

theorem State.withAside_skipIf (c : Bool) : (s.withAside d e q n).skipIf c = (s.skipIf c).withAside d e q n := by
  rw [State.skipIf_eq, State.skipIf_eq]; rfl

/-- Every instruction but FX07 and CXNN passes over the timers and the `rnd` input; FX07 reads DT and CXNN the byte. -/
theorem exec_aside (i : Instr) (hdt : (∀ x, i ≠ .ldVxDt x) ∨ d = s.dt)
    (hrnd : (∀ x nn, i ≠ .rnd x nn) ∨ q = s.rndIn ∧ n = s.draws) :
    AsideFlow i s d e q n (exec i s) (exec i (s.withAside d e q n)) := by
  cases i with
  | ret => exact exec_ret_aside
  | call nnn => exact exec_call_aside nnn
  | ldVxK x => exact exec_ldVxK_aside x
  | seImm x nn | sneImm x nn | seReg x y | sneReg x y | skp x | sknp x =>
    exact ⟨_, rfl, congrArg _ (State.withAside_skipIf _)⟩
  | ldVxDt x =>
    obtain h | rfl := hdt
    · exact (h x rfl).elim
    · exact ⟨_, rfl, rfl⟩
  | rnd x nn =>
    obtain h | ⟨rfl, rfl⟩ := hrnd
    · exact (h x nn rfl).elim
    · exact ⟨_, rfl, rfl⟩
  | _ => exact ⟨_, rfl, rfl⟩

end

/-! ## The keypad, memory, I, the call stack and the diagnostic -/

/-- Memory after an instruction. -/
def memAfter (i : Instr) (s : State) : Memory :=
  match i with
  | .ldB x => s.mem.storeList (s.indexAddr 0) (bcdDigits (s.readV x))
  | .ldMemVx x => s.mem.storeList (s.indexAddr 0) (s.regsThrough x)
  | _ => s.mem

/-- I after an instruction. -/
def indexAfter (i : Instr) (s : State) : Word :=
  match i with
  | .ldI nnn => zext16 nnn
  | .addI x => s.i + (s.readV x).setWidth 16
  | .ldF x => glyphAddr (s.readV x)
  | .ldMemVx x | .ldVxMem x => s.indexPast x
  | _ => s.i

/-- The `diag` output after an instruction's execute phase. -/
def diagAfter (i : Instr) (s : State) : Option Diag :=
  match i with
  | .call nnn => if s.sp.val = 16 then some ⟨.stackOverflow, s.pc, encode (.call nnn)⟩ else s.diag
  | .ret => if s.sp.val = 0 then some ⟨.stackUnderflow, s.pc, encode .ret⟩ else s.diag
  | _ => s.diag

/-- What the execute phase of `i` from `s` to `t` does to the keypad, memory, I, the call stack and the diagnostic. -/
structure Executed (i : Instr) (s t : State) : Prop where
  keys : t.keys = s.keys
  mem : t.mem = memAfter i s
  index : t.i = indexAfter i s
  calls : (∀ nnn, i ≠ .call nnn) → i ≠ .ret → t.sp = s.sp ∧ t.stack = s.stack
  diag : t.diag = diagAfter i s

/-- Every instruction completes, in a state that `Executed` describes. -/
theorem exec_executed (i : Instr) (s : State) : ∃ t, exec i s = .next t ∧ Executed i s t := by
  cases i with
  | ret =>
    rcases Nat.eq_zero_or_pos s.sp.val with h | h
    · exact ⟨_, exec_ret_of_empty h, rfl, rfl, rfl, fun _ hne => absurd rfl hne, (if_pos h).symm⟩
    · exact ⟨_, exec_ret_of_pos h, rfl, rfl, rfl, fun _ hne => absurd rfl hne, (if_neg (by omega)).symm⟩
  | call nnn =>
    rcases s.sp_lt_or_full with h | h
    · exact ⟨_, exec_call_of_lt nnn h, rfl, rfl, rfl, fun hne => absurd rfl (hne nnn), (if_neg (by omega)).symm⟩
    · exact ⟨_, exec_call_of_full nnn h, rfl, rfl, rfl, fun hne => absurd rfl (hne nnn), (if_pos h).symm⟩
  | ldVxK x =>
    cases h : s.lowestKey with
    | none => exact ⟨_, exec_ldVxK_of_none h, rfl, rfl, rfl, fun _ _ => ⟨rfl, rfl⟩, rfl⟩
    | some k => exact ⟨_, exec_ldVxK_of_some h, rfl, rfl, rfl, fun _ _ => ⟨rfl, rfl⟩, rfl⟩
  | seImm x nn | sneImm x nn | seReg x y | sneReg x y | skp x | sknp x =>
    exact ⟨_, congrArg Host.Outcome.next (s.skipIf_eq _), rfl, rfl, rfl, fun _ _ => ⟨rfl, rfl⟩, rfl⟩
  | _ => exact ⟨_, rfl, rfl, rfl, rfl, fun _ _ => ⟨rfl, rfl⟩, rfl⟩

theorem executed_of_exec {i : Instr} {s t : State} (h : exec i s = .next t) : Executed i s t := by
  obtain ⟨u, hu, hex⟩ := exec_executed i s
  obtain rfl := Host.Outcome.next.inj (hu.symm.trans h)
  exact hex

end Sys2Proof.Machine
end

section
/-! PROOFS. What every step does: it completes, ticks, takes a byte off the `rnd` input, keeps the keypad and the
invariant, and reports at most one diagnostic (R90, R241-R252). -/

namespace Sys2Proof.Machine

/-! ## The step completes -/

theorem decodeWord_of_decodeBytes {hi lo : Byte} {i : Instr} {rest : List Byte}
    (h : decodeBytes [hi, lo] = .ok (i, rest)) : decodeWord (wordOfBytes hi lo) = .ok i := by
  simp only [decodeBytes] at h
  split at h
  · next j hj => cases h; exact hj
  · cases h

/-- Settles O7: the bytes at PC are the fetched word, and every instruction completes. -/
theorem stepRunsDecodedInstruction : Obligations.StepRunsDecodedInstruction := by
  unfold Obligations.StepRunsDecodedInstruction
  intro s i h
  have hd : decodeWord s.fetch = .ok i := decodeWord_of_decodeBytes h
  obtain ⟨t, ht, -⟩ := exec_executed i s.beginStep
  exact ⟨t, ht, step_of_decoded hd ht⟩

theorem exists_step (s : State) : ∃ t, step s = .next t := by
  cases hd : decodeWord s.fetch with
  | ok i =>
    obtain ⟨t, ht, -⟩ := exec_executed i s.beginStep
    exact ⟨_, step_of_decoded hd ht⟩
  | error u => exact ⟨_, step_of_unknown hd⟩

/-- Settles O9: every instruction completes, and with it the step; so does a step on an unknown word. -/
theorem stepAlwaysAnswersNext : Obligations.StepAlwaysAnswersNext := by
  unfold Obligations.StepAlwaysAnswersNext
  refine ⟨fun i s => ?_, exists_step⟩
  obtain ⟨t, ht, -⟩ := exec_executed i s
  exact ⟨t, ht⟩

/-! ## The invariant -/

theorem memAfter_keeps {s : State} (i : Instr) (h : s.Inv) : (memAfter i s).wf ∧ (memAfter i s).romIntact := by
  cases i with
  | ldB x | ldMemVx x => exact ⟨Memory.storeList_wf _ _ h.1, Memory.storeList_romIntact _ _ h.2⟩
  | _ => exact h

/-- Settles O54: the invariant speaks of memory alone, which an instruction changes by stores if at all, and an unknown
word not at all. -/
theorem stepKeepsInvariant : Obligations.StepKeepsInvariant := by
  unfold Obligations.StepKeepsInvariant
  intro s t hinv h
  obtain ⟨i, u, -, hu, rfl⟩ | ⟨e, -, rfl⟩ := step_cases h
  · rw [State.Inv, State.endStep_mem, (executed_of_exec hu).mem]
    exact memAfter_keeps (s := s.beginStep) i hinv
  · exact hinv

/-! ## Diagnostics -/

/-- Settles O10: CALL and RET alone set the diagnostic, with their own word, which is the fetched one; an unknown word is
recorded as it was fetched. -/
theorem diagnosticsExactlyWhen : Obligations.DiagnosticsExactlyWhen := by
  unfold Obligations.DiagnosticsExactlyWhen
  refine ⟨fun s t h => ?_, rfl, rfl, rfl⟩
  obtain ⟨i, u, hd, hu, rfl⟩ | ⟨e, hd, rfl⟩ := step_cases h
  · have hword : encode i = s.fetch := encode_of_decodeWord hd
    rw [hd, State.endStep_diag, (executed_of_exec hu).diag]
    cases i with
    | call nnn | ret => rw [← hword]; rfl
    | _ => rfl
  · rw [hd]; rfl

/-- A step that only records a diagnostic changes DT and ST by the tick, beside `diag` and the `rnd` input. -/
theorem raiseDiag_step_inert (s : State) (c : DiagCode) (w : Word) :
    SameButTimers s (s.beginStep.raiseDiag c w).endStep ∧
      (s.beginStep.raiseDiag c w).endStep.dt = tickTimer s.dt ∧
      (s.beginStep.raiseDiag c w).endStep.st = tickTimer s.st :=
  ⟨⟨rfl, rfl, fun _ _ => rfl, ⟨rfl, fun _ => rfl⟩, ⟨fun _ _ => rfl, rfl⟩, fun _ => rfl, rfl⟩, rfl, rfl⟩

/-- Settles O8: an unknown word's execute phase records the diagnostic and does nothing else. -/
theorem unknownWordIsInert : Obligations.UnknownWordIsInert := by
  unfold Obligations.UnknownWordIsInert
  intro s u hd
  exact ⟨_, step_of_unknown hd, rfl, raiseDiag_step_inert s .unknownOpcode s.fetch⟩

/-- An instruction that finds no diagnostic and leaves one did nothing but record it. -/
theorem eq_raiseDiag_of_exec {i : Instr} {s t : State} (hs : s.diag = none) (h : exec i s = .next t)
    (hdiag : t.diag.isSome = true) : ∃ c w, t = s.raiseDiag c w := by
  rw [(executed_of_exec h).diag] at hdiag
  cases i with
  | ret =>
    rcases Nat.eq_zero_or_pos s.sp.val with hsp | hsp
    · exact ⟨_, _, Host.Outcome.next.inj (h.symm.trans (exec_ret_of_empty hsp))⟩
    · rw [diagAfter, if_neg (by omega), hs] at hdiag; cases hdiag
  | call nnn =>
    rcases s.sp_lt_or_full with hsp | hsp
    · rw [diagAfter, if_neg (by omega), hs] at hdiag; cases hdiag
    · exact ⟨_, _, Host.Outcome.next.inj (h.symm.trans (exec_call_of_full nnn hsp))⟩
  | _ => exact absurd hdiag (by simp [diagAfter, hs])

/-- Settles O11: a diagnosed step only records its diagnostic, be it an instruction's or an unknown word's. -/
theorem diagnosedStepIsInert : Obligations.DiagnosedStepIsInert := by
  unfold Obligations.DiagnosedStepIsInert
  intro s t h hdiag
  obtain ⟨i, u, -, hu, rfl⟩ | ⟨e, -, rfl⟩ := step_cases h
  · obtain ⟨c, w, rfl⟩ := eq_raiseDiag_of_exec s.beginStep_diag hu hdiag
    exact raiseDiag_step_inert s c w
  · exact raiseDiag_step_inert s .unknownOpcode s.fetch

/-! ## The timers and the `rnd` input -/

/-- The timers and the `rnd` input after an instruction: the flow of `exec_aside` from the state's own. -/
theorem aside_of_exec {i : Instr} {s t : State} (h : exec i s = .next t) :
    t.dt = dtAfter i s s.dt ∧ t.st = stAfter i s s.st ∧ t.rndIn = s.rndIn ∧ t.draws = s.draws := by
  obtain ⟨u, -, hu⟩ := exec_aside (s := s) (e := s.st) i (.inr rfl) (.inr ⟨rfl, rfl⟩)
  obtain rfl := Host.Outcome.next.inj (h.symm.trans hu)
  exact ⟨rfl, rfl, rfl, rfl⟩

/-- The outcome from other timers and another `rnd` input, where the outcome from `s` is known. -/
theorem exec_withAside {i : Instr} {s t : State} {d : Byte} {q : List Byte} {n : Nat} (e : Byte)
    (h : exec i s = .next t) (hdt : (∀ x, i ≠ .ldVxDt x) ∨ d = s.dt)
    (hrnd : (∀ x nn, i ≠ .rnd x nn) ∨ q = s.rndIn ∧ n = s.draws) :
    exec i (s.withAside d e q n) = .next (t.withAside (dtAfter i s d) (stAfter i s e) q n) := by
  obtain ⟨u, hu, hu'⟩ := exec_aside (e := e) i hdt hrnd
  rwa [Host.Outcome.next.inj (hu.symm.trans h)] at hu'

/-- Settles O15: a step ends with the tick of what the instruction left, and no instruction but FX07 depends on a
timer. -/
theorem timersTickAndAreSetByTheirInstructions : Obligations.TimersTickAndAreSetByTheirInstructions := by
  unfold Obligations.TimersTickAndAreSetByTheirInstructions
  refine ⟨fun s t h => ?_, fun i s t e h => ?_, fun i s t d h hi => ?_⟩
  · obtain ⟨i, u, hd, hu, rfl⟩ | ⟨e, hd, rfl⟩ := step_cases h
    · obtain ⟨hdt, hst, -, -⟩ := aside_of_exec hu
      rw [hd, State.endStep_dt, State.endStep_st, hdt, hst]
      constructor
      · rintro d rfl; cases i <;> rfl
      · rintro d rfl; cases i <;> rfl
    · rw [hd]
      exact ⟨fun d hd => hd ▸ rfl, fun d hd => hd ▸ rfl⟩
  · obtain ⟨hdt, -, hq, hn⟩ := aside_of_exec h
    refine ⟨_, exec_withAside e h (.inr rfl) (.inr ⟨rfl, rfl⟩), ?_⟩
    rw [← hdt, ← hq, ← hn]; rfl
  · obtain ⟨-, hst, hq, hn⟩ := aside_of_exec h
    refine ⟨_, exec_withAside s.st h (.inl hi) (.inr ⟨rfl, rfl⟩), ?_⟩
    rw [← hst, ← hq, ← hn]; rfl

/-- Settles O20: no instruction but CXNN depends on the `rnd` input or changes it, and the end of the step takes one
byte. -/
theorem rndReadOnlyByCxnn : Obligations.RndReadOnlyByCxnn := by
  unfold Obligations.RndReadOnlyByCxnn
  refine ⟨fun i s t q n h hi => ?_, fun s t h => ?_⟩
  · obtain ⟨hdt, hst, -, -⟩ := aside_of_exec h
    refine ⟨_, exec_withAside s.st h (.inr rfl) (.inl hi), ?_⟩
    rw [← hdt, ← hst]; rfl
  · obtain ⟨i, u, -, hu, rfl⟩ | ⟨e, -, rfl⟩ := step_cases h
    · obtain ⟨-, -, hq, hn⟩ := aside_of_exec hu
      rw [State.endStep_rndIn, State.endStep_draws, hq, hn]
      exact ⟨rfl, rfl⟩
    · exact ⟨rfl, rfl⟩

/-! ## Who writes I, memory and the call stack -/

theorem indexAfter_eq_or (i : Instr) (s : State) :
    indexAfter i s = s.i ∨ (∃ n, i = .ldI n) ∨ ∃ x, i = .addI x ∨ i = .ldF x ∨ i = .ldMemVx x ∨ i = .ldVxMem x := by
  cases i <;> simp [indexAfter]

theorem memAfter_eq_of_ne {i : Instr} (s : State) (h : ∀ x, i ≠ .ldB x ∧ i ≠ .ldMemVx x) : memAfter i s = s.mem := by
  cases i with
  | ldB x => exact absurd rfl (h x).1
  | ldMemVx x => exact absurd rfl (h x).2
  | _ => rfl

/-- Settles O19, by what the execute phase does to I, memory and the call stack. -/
theorem indexMemoryAndStackWriters : Obligations.IndexMemoryAndStackWriters := by
  unfold Obligations.IndexMemoryAndStackWriters
  intro i s t h
  obtain ⟨-, hmem, hi, hcalls, -⟩ := executed_of_exec h
  refine ⟨fun hne => ?_, fun hi => ?_, fun hcall hret => ?_⟩
  · exact (indexAfter_eq_or i s).resolve_left fun e => hne (hi.trans e)
  · exact State.memRead_congr (hmem.trans (memAfter_eq_of_ne s hi))
  · obtain ⟨hsp, hstack⟩ := hcalls hcall hret
    exact ⟨hsp, fun k => by rw [hstack]⟩

end Sys2Proof.Machine
end

section
/-! PROOFS. Parked states (R266). -/

namespace Sys2Proof.Machine

theorem SameButTimers.refl (s : State) : SameButTimers s s :=
  ⟨rfl, rfl, fun _ _ => rfl, ⟨rfl, fun _ => rfl⟩, ⟨fun _ _ => rfl, rfl⟩, fun _ => rfl, rfl⟩

theorem SameButTimers.trans {s t u : State} (h : SameButTimers s t) (h' : SameButTimers t u) : SameButTimers s u := by
  obtain ⟨hpc, hi, hregs, ⟨hsp, hstack⟩, ⟨hfb, hredraw⟩, hmem, hkeys⟩ := h
  obtain ⟨hpc', hi', hregs', ⟨hsp', hstack'⟩, ⟨hfb', hredraw'⟩, hmem', hkeys'⟩ := h'
  exact ⟨hpc'.trans hpc, hi'.trans hi, fun r hr => (hregs' r hr).trans (hregs r hr),
    ⟨hsp'.trans hsp, fun k => (hstack' k).trans (hstack k)⟩,
    ⟨fun x y => (hfb' x y).trans (hfb x y), hredraw'.trans hredraw⟩, fun a => (hmem' a).trans (hmem a),
    hkeys'.trans hkeys⟩

/-- Whether a state is parked depends on PC, the bytes there, SP and the keypad. -/
theorem parked_congr {s t : State} (h : SameButTimers s t) : t.parked = s.parked := by
  obtain ⟨hpc, -, -, ⟨hsp, -⟩, -, hmem, hkeys⟩ := h
  have hfetch : t.fetch = s.fetch := by rw [State.fetch, hpc, hmem, hmem, State.fetch]
  rw [State.parked, State.parked, hfetch, hpc, hsp, State.lowestKey_congr hkeys]

/-- What a parked state's step executes: a jump to PC itself, or a diagnostic. -/
theorem parked_cases {s : State} (h : s.parked = true) :
    step s = .next (s.beginStep.jumpTo s.pc).endStep ∨
      ∃ c w, step s = .next (s.beginStep.raiseDiag c w).endStep := by
  unfold State.parked at h
  split at h
  case h_1 e hd => exact .inr ⟨_, _, step_of_unknown hd⟩
  case h_2 nnn hd =>
    refine .inl (step_of_decoded hd ?_)
    rw [exec_jp, of_decide_eq_true h]
  case h_3 x hd =>
    have hk : s.beginStep.lowestKey = none := Option.isNone_iff_eq_none.1 h
    exact .inl (step_of_decoded hd (exec_ldVxK_of_none hk))
  case h_4 hd => exact .inr ⟨_, _, step_of_decoded hd (exec_ret_of_empty (of_decide_eq_true h))⟩
  case h_5 nnn hd => exact .inr ⟨_, _, step_of_decoded hd (exec_call_of_full nnn (of_decide_eq_true h))⟩
  case h_6 => cases h

/-- A parked state's step keeps all but the timers, the diagnostic output and the `rnd` input. -/
theorem step_of_parked {s : State} (h : s.parked = true) : ∃ t, step s = .next t ∧ SameButTimers s t := by
  obtain hj | ⟨c, w, hr⟩ := parked_cases h
  · obtain ⟨⟨hregs, hstack, -, hscreen, hmem, ⟨hkeys, -, -⟩, -⟩, hi⟩ := s.beginStep.jumpTo_sameButRegs s.pc
    exact ⟨_, hj, rfl, hi, hregs, hstack, hscreen, hmem, hkeys⟩
  · exact ⟨_, hr, (raiseDiag_step_inert s c w).1⟩

/-- A run's first step is a step of its own. -/
theorem run_succ_of_step (M : Host.Core) {s t : M.State} (h : M.step s = .next t) (n : Nat) :
    M.run (n + 1) s = M.run n t := by
  rw [Host.Core.run, h]

/-- Settles O12, by induction on the number of steps: a parked state's step keeps what being parked depends on. -/
theorem parkedForever : Obligations.ParkedForever := by
  unfold Obligations.ParkedForever
  intro n
  induction n with
  | zero => exact fun s h => ⟨s, rfl, .refl s, h⟩
  | succ n ih =>
    intro s h
    obtain ⟨t, hst, hsame⟩ := step_of_parked h
    obtain ⟨u, hrun, hsame', hpark⟩ := ih t (parked_congr hsame ▸ h)
    exact ⟨u, (run_succ_of_step core hst n).trans hrun, hsame.trans hsame', hpark⟩

end Sys2Proof.Machine
end

section
/-! PROOFS. The state at reset, and the host's operations (R37, R255-R261). -/

namespace Sys2Proof.Machine

/-! ## Reset -/

/-- Settles O52: memory at reset lists no byte, so every byte reads as its reset contents; the other pieces of state are
constant vectors and zeros. -/
theorem resetState : Obligations.ResetState := by
  unfold Obligations.ResetState
  refine ⟨rfl, fun a => rfl, fun r => ?_, rfl, rfl, fun k => ?_, rfl, rfl, Framebuffer.pixel_clear, rfl, fun k => ?_⟩
  · exact Vector.getElem_replicate r.isLt
  · exact Vector.getElem_replicate k.isLt
  · exact Vector.getElem_replicate k.isLt

/-- Settles O53: no byte is listed at reset, and the ROM's reset contents are the font. -/
theorem resetMeetsInvariant : Obligations.ResetMeetsInvariant := by
  unfold Obligations.ResetMeetsInvariant
  exact ⟨⟨List.Pairwise.nil, nofun⟩, fun a ha => if_pos ha⟩

/-! ## The cartridge load -/

section
variable {s : State} {bytes : List Byte}

theorem State.load_of_le (h : bytes.length ≤ 3584) :
    s.load bytes = .ok { s with mem := s.mem.writeList Config.loadOrigin bytes } := if_neg (Nat.not_lt.2 h)

theorem State.load_of_lt (h : 3584 < bytes.length) : s.load bytes = .error .capacity := if_pos h

theorem State.afterHost_load_of_le (h : bytes.length ≤ 3584) :
    s.afterHost (.load bytes) = { s with mem := s.mem.writeList Config.loadOrigin bytes } := by
  rw [State.afterHost, State.load_of_le h]

theorem State.afterHost_load_of_lt (h : 3584 < bytes.length) : s.afterHost (.load bytes) = s := by
  rw [State.afterHost, State.load_of_lt h]

end

/-- Settles O56: the load writes a run of cells from 0x200 on, and each cell in or out of it reads as a run of writes
leaves it. -/
theorem loadCartridge : Obligations.LoadCartridge := by
  unfold Obligations.LoadCartridge
  refine ⟨fun s bytes h => ⟨_, State.load_of_le h, rfl, fun j a hj ha => ?_, fun a ha => ?_⟩,
    fun s bytes h => ⟨State.load_of_lt h, State.afterHost_load_of_lt h⟩⟩
  · have hin : Config.loadOrigin ≤ addr12 a ∧ addr12 a < Config.loadOrigin + bytes.length := by
      rw [ha, Config.loadOrigin]; omega
    refine (Memory.read_writeList s.mem Config.loadOrigin (addr12 a) bytes).trans ?_
    rw [dif_pos hin]
    simp only [ha, Config.loadOrigin, Nat.add_sub_cancel_left]
  · have hout : ¬ (Config.loadOrigin ≤ addr12 a ∧ addr12 a < Config.loadOrigin + bytes.length) := by
      rw [Config.loadOrigin]; omega
    refine (Memory.read_writeList s.mem Config.loadOrigin (addr12 a) bytes).trans ?_
    rw [dif_neg hout]; rfl

/-- Settles O55: the loader's cells lie inside memory and above the ROM; the other operations do not touch memory. -/
theorem hostKeepsInvariant : Obligations.HostKeepsInvariant := by
  unfold Obligations.HostKeepsInvariant
  intro s o hinv
  cases o with
  | load bytes =>
    rcases Nat.lt_or_ge 3584 bytes.length with h | h
    · rwa [State.afterHost_load_of_lt h]
    · rw [State.afterHost_load_of_le h]
      have hcells : Config.loadOrigin + bytes.length ≤ Config.memSize := by
        rw [Config.loadOrigin, Config.memSize]; omega
      exact ⟨Memory.writeList_wf hcells hinv.1, Memory.writeList_romIntact (by decide) hinv.2⟩
  | setKey k p | acknowledgeRedraw | supplyRnd b => exact hinv

/-! ## The keypad -/

theorem State.keyDown_setKey (s : State) (j k : Fin 16) (p : Bool) :
    (s.setKey j p).keyDown k = if j = k then p else s.keyDown k := by
  simp only [State.keyDown, State.setKey, Fin.getElem_fin, Vector.getElem_set, Fin.val_inj]

theorem State.afterHost_load_keys (s : State) (bytes : List Byte) : (s.afterHost (.load bytes)).keys = s.keys := by
  rcases Nat.lt_or_ge 3584 bytes.length with h | h
  · rw [State.afterHost_load_of_lt h]
  · rw [State.afterHost_load_of_le h]

/-- Settles O18: no instruction touches the keypad, nor does an unknown word, and of the host's operations
set-key-state alone does. -/
theorem keysChangedOnlyByHost : Obligations.KeysChangedOnlyByHost := by
  unfold Obligations.KeysChangedOnlyByHost
  refine ⟨fun s t h => ?_, fun s o k => ?_, fun s k p => rfl⟩
  · obtain ⟨i, u, -, hu, rfl⟩ | ⟨e, -, rfl⟩ := step_cases h
    · exact (executed_of_exec hu).keys
    · rfl
  · cases o with
    | load bytes => rw [State.keyDown, State.afterHost_load_keys]; rfl
    | setKey j p => exact s.keyDown_setKey j k p
    | acknowledgeRedraw | supplyRnd b => rfl

/-! ## The outputs -/

/-- Settles O57: both are the definitions of the two operations. -/
theorem soundAndAcknowledge : Obligations.SoundAndAcknowledge := by
  unfold Obligations.SoundAndAcknowledge
  exact ⟨fun s => decide_eq_true_iff, fun s => ⟨rfl, rfl⟩⟩

end Sys2Proof.Machine
end

section
/-! PROOFS. Skips (R133), jumps, CALL and RET (R130-R138, R200, R201). -/

namespace Sys2Proof.Machine

/-! ## Skips -/

section
variable {i : Instr} {s : State} {c : Bool} {p : Prop} [Decidable p]

/-- A skip when `p` holds. -/
theorem skip_spec (h : exec i s = .next (s.skipIf c)) (hc : c = true ↔ p) :
    ∃ t, exec i s = .next t ∧ t.pc = s.pc + (if p then 4#16 else 2#16) ∧ SameButRegs [] s t := by
  rw [State.skipIf_eq] at h
  refine ⟨_, h, ?_, s.jumpTo_sameButRegs _⟩
  simp only [State.jumpTo_pc, hc, apply_ite (s.pc + ·)]

/-- A skip when `p` does not hold. -/
theorem skip_spec_not (h : exec i s = .next (s.skipIf c)) (hc : c = true ↔ ¬ p) :
    ∃ t, exec i s = .next t ∧ t.pc = s.pc + (if p then 2#16 else 4#16) ∧ SameButRegs [] s t := by
  simpa only [ite_not] using skip_spec h hc

end

/-- Settles O28: SE skips when Vx equals NN and SNE when it does not. -/
theorem skipOnImmediate : Obligations.SkipOnImmediate := by
  unfold Obligations.SkipOnImmediate
  exact fun x nn s => ⟨skip_spec (i := .seImm x nn) rfl decide_eq_true_iff,
    skip_spec_not (i := .sneImm x nn) rfl decide_eq_true_iff⟩

/-- Settles O29: SE skips when the registers are equal and SNE when they are not. -/
theorem skipOnRegisters : Obligations.SkipOnRegisters := by
  unfold Obligations.SkipOnRegisters
  exact fun x y s => ⟨skip_spec (i := .seReg x y) rfl decide_eq_true_iff,
    skip_spec_not (i := .sneReg x y) rfl decide_eq_true_iff⟩

theorem val_keyIndex (x : Byte) : (keyIndex x).val = x.toNat % 16 := by
  simp [keyIndex]

/-- Settles O40: the key is the one whose index is the low nibble of Vx. -/
theorem skipOnKey : Obligations.SkipOnKey := by
  unfold Obligations.SkipOnKey
  intro x s k hk
  obtain rfl : keyIndex (s.readV x) = k := Fin.ext ((val_keyIndex _).trans hk.symm)
  exact ⟨skip_spec (i := .skp x) rfl Iff.rfl,
    skip_spec_not (i := .sknp x) rfl (by rw [Bool.not_eq_true', Bool.not_eq_true])⟩

/-! ## JP V0 -/

/-- NNN + V0 fits in 16 bits. -/
theorem toNat_zext16_add (nnn : Addr) (b : Byte) : (zext16 nnn + b.setWidth 16).toNat = nnn.toNat + b.toNat := by
  have hb : (b.setWidth 16).toNat = b.toNat := BitVec.toNat_setWidth_of_le (by decide)
  rw [BitVec.toNat_add, toNat_zext16, hb]
  omega

theorem exec_jpV0 (nnn : Addr) (s : State) :
    exec (.jpV0 nnn) s = .next (s.jumpTo (zext16 nnn + (s.readV V0).setWidth 16)) := rfl

/-- Settles O24: JP V0 is a jump to NNN + V0, which 16 bits hold. -/
theorem jumpWithOffset : Obligations.JumpWithOffset := by
  unfold Obligations.JumpWithOffset
  intro nnn s
  refine ⟨_, exec_jpV0 nnn s, ?_, s.jumpTo_sameButRegs _⟩
  rw [State.jumpTo_pc, toNat_zext16_add]

/-! ## CALL and RET -/

/-- Another call stack and another PC: the rest is as before. -/
theorem sameButStack_of_calls (s : State) (stack' : Vector Word 16) (sp' : Fin 17) (pc' : Word) :
    SameButStack s ({ s with stack := stack', sp := sp' }.jumpTo pc') :=
  ⟨fun _ _ => rfl, rfl, ⟨rfl, rfl⟩, ⟨fun _ _ => rfl, rfl⟩, fun _ => rfl, ⟨rfl, rfl, rfl⟩, rfl⟩

theorem raiseDiag_sameButDiag (s : State) (c : DiagCode) (w : Word) : SameButDiag s (s.raiseDiag c w) :=
  ⟨rfl, rfl, fun _ _ => rfl, ⟨rfl, fun _ => rfl⟩, ⟨rfl, rfl⟩, ⟨fun _ _ => rfl, rfl⟩, fun _ => rfl, ⟨rfl, rfl, rfl⟩⟩

/-- Settles O25: with room CALL pushes and jumps, and with none it only records the diagnostic. -/
theorem callPushesAndJumps : Obligations.CallPushesAndJumps := by
  unfold Obligations.CallPushesAndJumps
  refine ⟨fun nnn s h => ?_, fun nnn s h => ⟨_, exec_call_of_full nnn h, rfl, raiseDiag_sameButDiag s _ _⟩⟩
  refine ⟨_, exec_call_of_lt nnn h, toNat_zext16 nnn, rfl, fun k => ?_, sameButStack_of_calls s _ _ _⟩
  simp only [State.jumpTo_stack, Fin.getElem_fin, Vector.getElem_set, eq_comm]

/-- Settles O26: with an entry RET pops and jumps past the CALL that pushed it, and with none it only records the
diagnostic. -/
theorem returnPopsAndContinues : Obligations.ReturnPopsAndContinues := by
  unfold Obligations.ReturnPopsAndContinues
  refine ⟨fun s k h => ?_, fun s h => ⟨_, exec_ret_of_empty h, rfl, raiseDiag_sameButDiag s _ _⟩⟩
  have hk : s.sp.val - 1 = k.val := by omega
  refine ⟨_, exec_ret_of_pos (by omega), ?_, hk, rfl, sameButStack_of_calls s s.stack _ _⟩
  simp only [State.jumpTo_pc, hk, Fin.getElem_fin]

/-- Settles O27: the RET pops the entry the CALL pushed, at the SP the CALL found. -/
theorem callThenReturnResumes : Obligations.CallThenReturnResumes := by
  unfold Obligations.CallThenReturnResumes
  intro nnn s h
  refine ⟨_, exec_call_of_lt nnn h, fun u hsp hstack => ?_⟩
  have hpos : 0 < u.sp.val := by rw [hsp]; exact Nat.succ_pos _
  refine ⟨_, exec_ret_of_pos hpos, ?_, ?_⟩
  · simp [hsp, hstack]
  · simp [hsp]

end Sys2Proof.Machine
end

section
/-! PROOFS. The instructions that write a result (R151-R161), LD ST, Vx (R205), LD Vx, K (R203) and ADD I, Vx (R221). -/

namespace Sys2Proof.Machine

/-! ## Results without a flag -/

/-- Settles O31: a result without a flag, whose number is the sum modulo 256. -/
theorem addImmediateWithoutFlag : Obligations.AddImmediateWithoutFlag := by
  unfold Obligations.AddImmediateWithoutFlag
  intro x nn s
  obtain ⟨t, ht, hsum, hpc, hframe⟩ := s.result_spec x (s.readV x + nn)
  exact ⟨t, ht, by rw [hsum, BitVec.toNat_add], hpc, hframe⟩

/-- Settles O32: results without a flag, the logic ones bit by bit. -/
theorem copyAndLogicWithoutFlag : Obligations.CopyAndLogicWithoutFlag := by
  unfold Obligations.CopyAndLogicWithoutFlag
  intro x y s
  refine ⟨s.result_spec x (s.readV y), ?_, ?_, ?_⟩
  · obtain ⟨t, ht, hx, hpc, hframe⟩ := s.result_spec x (s.readV x ||| s.readV y)
    exact ⟨t, ht, fun k _ => by rw [hx, BitVec.getLsbD_or], hpc, hframe⟩
  · obtain ⟨t, ht, hx, hpc, hframe⟩ := s.result_spec x (s.readV x &&& s.readV y)
    exact ⟨t, ht, fun k _ => by rw [hx, BitVec.getLsbD_and], hpc, hframe⟩
  · obtain ⟨t, ht, hx, hpc, hframe⟩ := s.result_spec x (s.readV x ^^^ s.readV y)
    exact ⟨t, ht, fun k _ => by rw [hx, BitVec.getLsbD_xor], hpc, hframe⟩

/-- Settles O36: a result without a flag; the step's byte is the first the host has settled, where there is one. -/
theorem randomAndMask : Obligations.RandomAndMask := by
  unfold Obligations.RandomAndMask
  refine ⟨fun x nn s => s.result_spec x (s.rnd &&& nn), fun s b q h => ?_⟩
  rw [State.rnd, h]

/-! ## Results with a flag -/

theorem toNat_sub_byte (a b : Byte) : (a - b).toNat = (a.toNat + 256 - b.toNat) % 256 := by
  rw [BitVec.toNat_sub]
  omega

theorem noBorrowFlag_eq (a b : Byte) : noBorrowFlag a b = if b.toNat ≤ a.toNat then 1#8 else 0#8 := by
  simp only [noBorrowFlag, flagByte, decide_eq_true_eq]

/-- A difference as a result, with the no-borrow flag: what SUB and SUBN do, one with the operands of the other. -/
theorem difference_spec (s : State) (x : Reg) (a b : Byte) :
    ∃ t, s.flaggedResult x (noBorrowFlag a b) (a - b) = .next t ∧
      (t.readV x).toNat = (a.toNat + 256 - b.toNat) % 256 ∧
      (x ≠ VF → t.readV VF = if b.toNat ≤ a.toNat then 1#8 else 0#8) ∧
      t.pc = s.pc + 2#16 ∧ SameButRegs [x, VF] s t := by
  obtain ⟨t, ht, hx, hflag, hpc, hframe⟩ := s.flaggedResult_spec x (noBorrowFlag a b) (a - b)
  exact ⟨t, ht, by rw [hx, toNat_sub_byte], fun hVF => by rw [hflag hVF, noBorrowFlag_eq], hpc, hframe⟩

/-- Settles O34: the two differences. -/
theorem subtractWithNotBorrow : Obligations.SubtractWithNotBorrow := by
  unfold Obligations.SubtractWithNotBorrow
  exact fun x y s => ⟨difference_spec s x (s.readV x) (s.readV y), difference_spec s x (s.readV y) (s.readV x)⟩

theorem toNat_flagByte (b : Bool) : (flagByte b).toNat = b.toNat := by
  cases b <;> rfl

/-- The bit that a right shift loses. -/
theorem toNat_shrFlag (a : Byte) : (shrFlag a).toNat = a.toNat % 2 := by
  rw [shrFlag, toNat_flagByte, BitVec.getLsbD, Nat.toNat_testBit, pow_zero, Nat.div_one]

/-- The bit that a left shift loses. -/
theorem toNat_shlFlag (a : Byte) : (shlFlag a).toNat = a.toNat / 128 := by
  rw [shlFlag, toNat_flagByte, BitVec.getLsbD, Nat.toNat_testBit]
  omega

/-- Settles O35: the halved and the doubled Vx as results, with the lost bit as flag. -/
theorem shiftInPlace : Obligations.ShiftInPlace := by
  unfold Obligations.ShiftInPlace
  intro x y s
  constructor
  · obtain ⟨t, ht, hx, hflag, hpc, hframe⟩ := s.flaggedResult_spec x (shrFlag (s.readV x)) (s.readV x >>> 1)
    refine ⟨t, ht, ?_, fun hVF => by rw [hflag hVF, toNat_shrFlag], hpc, hframe⟩
    rw [hx, BitVec.toNat_ushiftRight, Nat.shiftRight_eq_div_pow, pow_one]
  · obtain ⟨t, ht, hx, hflag, hpc, hframe⟩ := s.flaggedResult_spec x (shlFlag (s.readV x)) (s.readV x <<< 1)
    refine ⟨t, ht, ?_, fun hVF => by rw [hflag hVF, toNat_shlFlag], hpc, hframe⟩
    rw [hx, BitVec.toNat_shiftLeft, Nat.shiftLeft_eq, pow_one]

/-! ## LD ST, Vx -/

theorem exec_ldStVx (x : Reg) (s : State) : exec (.ldStVx x) s = .next (s.writeST (s.readV x)).advance2 := rfl

/-- A step of FX18 leaves ST at the tick of Vx. -/
theorem st_of_step_ldStVx {x : Reg} {s t : State} (hd : decodeWord s.fetch = .ok (.ldStVx x))
    (h : step s = .next t) : t.st = tickTimer (s.readV x) := by
  obtain rfl := eq_endStep_of_step hd (exec_ldStVx x s.beginStep) h
  rfl

theorem State.soundOn_iff (s : State) : s.soundOn = true ↔ s.st.toNat ≠ 0 := by
  rw [State.soundOn, decide_eq_true_iff, ne_eq, ne_eq, ← BitVec.toNat_inj]; rfl

/-- Settles O43: what the jump to the next instruction keeps of the state with the new ST, that state has from `s`; the
step's tick takes ST to Vx - 1, which is not 0 from 2 on. -/
theorem setSoundTimer : Obligations.SetSoundTimer := by
  unfold Obligations.SetSoundTimer
  refine ⟨fun x s => ?_, fun x s t hd h => ?_⟩
  · obtain ⟨⟨hregs, hstack, -, hscreen, hmem, hinputs, hdiag⟩, hi⟩ :=
      (s.writeST (s.readV x)).jumpTo_sameButRegs (s.pc + 2#16)
    exact ⟨_, exec_ldStVx x s, rfl, rfl, rfl, hregs, hi, hstack, hscreen, hmem, hinputs, hdiag⟩
  · have hst : t.st.toNat = (s.readV x).toNat - 1 := by rw [st_of_step_ldStVx hd h, toNat_tickTimer]
    refine ⟨hst, ?_⟩
    rw [State.soundOn_iff, hst]
    omega

/-! ## LD Vx, K -/

/-- A pressed key with no pressed key below it is the lowest pressed key. -/
theorem State.lowestKey_eq_some {s : State} {k : Fin 16} (hk : s.keyDown k = true)
    (hlow : ∀ j < k, s.keyDown j = false) : s.lowestKey = some k := by
  cases h : s.lowestKey with
  | none => rw [State.lowestKey_none h k] at hk; cases hk
  | some j =>
    obtain ⟨hj, hjlow⟩ := State.lowestKey_some h
    rcases lt_trichotomy j k with hlt | rfl | hgt
    · rw [hlow j hlt] at hj; cases hj
    · rfl
    · rw [hjlow k hgt] at hk; cases hk

theorem State.lowestKey_eq_none {s : State} (h : ∀ k, s.keyDown k = false) : s.lowestKey = none := by
  cases hk : s.lowestKey with
  | none => rfl
  | some k => have hdown := (State.lowestKey_some hk).1; rw [h k] at hdown; cases hdown

theorem toNat_keyByte (k : Fin 16) : (keyByte k).toNat = k.val := by
  rw [keyByte, BitVec.toNat_ofNat]
  omega

/-- Settles O44: with a lowest pressed key, its index is a result without a flag; with none, the instruction jumps to
itself. -/
theorem waitForKey : Obligations.WaitForKey := by
  unfold Obligations.WaitForKey
  refine ⟨fun x s k hk hlow => ?_, fun x s h => ?_⟩
  · obtain ⟨t, ht, hx, hpc, hframe⟩ := s.result_spec x (keyByte k)
    exact ⟨t, (exec_ldVxK_of_some (State.lowestKey_eq_some hk hlow)).trans ht, by rw [hx, toNat_keyByte], hpc, hframe⟩
  · exact ⟨_, exec_ldVxK_of_none (State.lowestKey_eq_none h), rfl, s.jumpTo_sameButRegs _⟩

/-! ## ADD I, Vx -/

theorem exec_addI (x : Reg) (s : State) : exec (.addI x) s =
    .next ((s.writeI (s.i + (s.readV x).setWidth 16)).writeV VF (indexFlag s.i (s.readV x))).advance2 := rfl

theorem indexFlag_eq (i : Word) (x : Byte) :
    indexFlag i x = if 0xFFF < i.toNat + x.toNat then 1#8 else 0#8 := by
  simp only [indexFlag, flagByte, decide_eq_true_eq]

/-- Settles O46: ADD I is a result in VF from the state with the new I. -/
theorem addToIndex : Obligations.AddToIndex := by
  unfold Obligations.AddToIndex
  intro x s
  obtain ⟨t, ht, hVF, hpc, ⟨hframe, hi⟩⟩ :=
    (s.writeI (s.i + (s.readV x).setWidth 16)).result_spec VF (indexFlag s.i (s.readV x))
  refine ⟨t, ht, ?_, hVF.trans (indexFlag_eq _ _), hpc, hframe⟩
  have hx : ((s.readV x).setWidth 16).toNat = (s.readV x).toNat := BitVec.toNat_setWidth_of_le (by decide)
  rw [hi, State.writeI_i, BitVec.toNat_add, hx]

end Sys2Proof.Machine
end

section
/-! PROOFS. Memory (R62-R65) and the transfers between memory and the registers (R225-R227). -/

namespace Sys2Proof.Machine

/-- Settles O21: the law of a store, with the address's low 12 bits and the ROM's size written out. -/
theorem memWriteThenMemRead : Obligations.MemWriteThenMemRead := by
  unfold Obligations.MemWriteThenMemRead
  exact fun s a b x => Memory.load_store s.mem a b x

/-! ## The font -/

/-- The font bytes are the rows of the glyphs, five to a glyph. -/
theorem fontGlyphs_row : ∀ d < 16, ∀ r < 5, fontGlyphs[d]?.bind (·[r]?) = some (fontByte (d * 5 + r)) := by decide

/-- A byte of the ROM reads as the font's. -/
theorem memRead_of_romIntact {s : State} (h : s.mem.romIntact) {a : Nat} (ha : a < 80) : s.memRead a = fontByte a := by
  have haddr : addr12 a = a := Nat.mod_eq_of_lt (by rw [Config.memSize]; omega)
  rw [State.memRead, Memory.load, haddr]
  exact h a ha

/-- Settles O22: I is five times the digit, and the ROM holds the font. -/
theorem indexToGlyphReadsTheFont : Obligations.IndexToGlyphReadsTheFont := by
  unfold Obligations.IndexToGlyphReadsTheFont
  intro x s hinv hdigit
  refine ⟨_, exec_ldF x s, fun r hr => ?_⟩
  have hrom : (s.writeI (glyphAddr (s.readV x))).advance2.mem.romIntact := hinv.2
  rw [State.indexAddr, State.advance2_i, State.writeI_i, toNat_glyphAddr, memRead_of_romIntact hrom (by omega)]
  exact fontGlyphs_row _ hdigit r hr

/-! ## Stores from I on -/

/-- Other memory, another I and another PC: the rest is as before. -/
theorem memWriteList_sameButMemI (s : State) (a : Nat) (l : List Byte) (i' pc' : Word) :
    SameButMemI s (((s.memWriteList a l).writeI i').jumpTo pc') :=
  ⟨fun _ _ => rfl, ⟨rfl, fun _ => rfl⟩, ⟨rfl, rfl⟩, ⟨fun _ _ => rfl, rfl⟩, ⟨rfl, rfl, rfl⟩, rfl⟩

theorem exec_ldB (x : Reg) (s : State) : exec (.ldB x) s =
    .next (s.memWriteList (s.indexAddr 0) (bcdDigits (s.readV x))).advance2 := rfl

/-- The digits as numbers: each is below 10, so it fits in its byte. -/
theorem toNat_bcdDigits (x : Byte) :
    (bcdDigits x).map BitVec.toNat = [x.toNat / 100, x.toNat / 10 % 10, x.toNat % 10] := by
  simp only [bcdDigits, List.map_cons, List.map_nil, BitVec.toNat_ofNat, List.cons.injEq, and_true]
  omega

theorem toNat_load_bcdDigits (m : Memory) (a b : Nat) (x : Byte) :
    ((m.storeList a (bcdDigits x)).load b).toNat =
      if addr12 b < 0x50 then (m.load b).toNat
      else if addr12 b = addr12 a then x.toNat / 100
      else if addr12 b = addr12 (a + 1) then x.toNat / 10 % 10
      else if addr12 b = addr12 (a + 2) then x.toNat % 10
      else (m.load b).toNat := by
  have hlen : (bcdDigits x).length = 3 := rfl
  have hcov : ∀ {k d : Nat}, ((bcdDigits x).map BitVec.toNat)[k]? = some d → addr12 b = addr12 (a + k) →
      ¬ addr12 b < 0x50 → ((m.storeList a (bcdDigits x)).load b).toNat = d := by
    intro k d hd hb hrom
    rw [List.getElem?_map, Option.map_eq_some_iff] at hd
    obtain ⟨y, hy, rfl⟩ := hd
    obtain ⟨hk, rfl⟩ := List.getElem?_eq_some_iff.1 hy
    rw [Memory.load_storeList_of_covered m a b _ (by rw [hlen]; decide) k hk hb.symm (Nat.not_lt.1 hrom)]
  rw [toNat_bcdDigits] at hcov
  split_ifs with hrom h0 h1 h2
  · rw [Memory.load_storeList_of_not_covered _ _ _ _ (.inl hrom)]
  · exact hcov (k := 0) rfl h0 hrom
  · exact hcov (k := 1) rfl h1 hrom
  · exact hcov (k := 2) rfl h2 hrom
  · rw [Memory.load_storeList_of_not_covered]
    refine .inr fun k hk e => ?_
    have hk : k = 0 ∨ k = 1 ∨ k = 2 := by omega
    obtain rfl | rfl | rfl := hk
    · exact h0 e.symm
    · exact h1 e.symm
    · exact h2 e.symm

/-- Settles O48: FX33 is the encoding, and LD B stores the three digits from I on. -/
theorem storeBcd : Obligations.StoreBcd := by
  unfold Obligations.StoreBcd
  intro x s
  exact ⟨Laws.RoundTrip.ldB x, _, exec_ldB x s, rfl, rfl,
    memWriteList_sameButMemI s (s.indexAddr 0) (bcdDigits (s.readV x)) s.i (s.pc + 2#16),
    fun b => toNat_load_bcdDigits s.mem (s.indexAddr 0) b (s.readV x)⟩

/-! ## The register dump and load -/

theorem exec_ldMemVx (x : Reg) (s : State) : exec (.ldMemVx x) s =
    .next ((s.memWriteList (s.indexAddr 0) (s.regsThrough x)).writeI (s.indexPast x)).advance2 := rfl

theorem exec_ldVxMem (x : Reg) (s : State) : exec (.ldVxMem x) s =
    .next ((s.loadRegsThrough x).writeI (s.indexPast x)).advance2 := rfl

theorem State.toNat_indexPast (s : State) (x : Reg) : (s.indexPast x).toNat = (s.i.toNat + x.val + 1) % 65536 :=
  BitVec.toNat_ofNat _ _

/-- Settles O49: FX55 is the encoding, and LD [I] stores the bytes of V0 to VX from I on, sixteen at most. -/
theorem registerDump : Obligations.RegisterDump := by
  unfold Obligations.RegisterDump
  intro x s
  refine ⟨Laws.RoundTrip.ldMemVx x, _, exec_ldMemVx x s, rfl, s.toNat_indexPast x, memWriteList_sameButMemI s _ _ _ _,
    fun k b hk hb hrom => ?_, fun b hb => ?_⟩
  · have hlen : (s.regsThrough x).length ≤ Config.memSize := by
      rw [State.regsThrough_length, Config.memSize]; omega
    have hk' : k.val < (s.regsThrough x).length := by
      rw [State.regsThrough_length]; exact Nat.lt_succ_of_le hk
    exact (Memory.load_storeList_of_covered s.mem _ b _ hlen k.val hk' hb hrom).trans (s.regsThrough_getElem x k hk)
  · refine Memory.load_storeList_of_not_covered s.mem _ b _ (hb.imp_right fun h k hk => ?_)
    rw [State.regsThrough_length] at hk
    exact h ⟨k, by omega⟩ (Nat.le_of_lt_succ hk)

/-- Settles O50: V0 to VX take the bytes from I on, and what is no register, I or PC is as before. -/
theorem registerLoad : Obligations.RegisterLoad := by
  unfold Obligations.RegisterLoad
  intro x s
  refine ⟨_, exec_ldVxMem x s, rfl, s.toNat_indexPast x, fun k hk => ?_, fun r hr => ?_, ⟨rfl, fun _ => rfl⟩,
    ⟨rfl, rfl⟩, ⟨fun _ _ => rfl, rfl⟩, fun _ => rfl, ⟨rfl, rfl, rfl⟩, rfl⟩
  · rw [State.readV_advance2, State.readV_writeI, State.readV_loadRegsThrough, if_pos hk]
  · rw [State.readV_advance2, State.readV_writeI, State.readV_loadRegsThrough, if_neg (mt mem_regsUpTo.2 hr)]

/-- Settles O51: the load reads V0 to VX where the dump put them. -/
theorem dumpThenLoadRestores : Obligations.DumpThenLoadRestores := by
  unfold Obligations.DumpThenLoadRestores
  intro x s hrom
  obtain ⟨-, t, ht, -, hi, -, hdump, -⟩ := registerDump x s
  refine ⟨t, ht, hi, fun u hmem hui => ?_⟩
  obtain ⟨w, hw, -, hwi, hload, -⟩ := registerLoad x u
  refine ⟨w, hw, fun k hk => ?_, hui ▸ hwi⟩
  have haddr : u.indexAddr k.val = s.indexAddr k.val := by rw [State.indexAddr, hui, State.indexAddr]
  rw [hload k hk, haddr, State.memRead_congr hmem]
  exact hdump k _ hk rfl (hrom k hk)

end Sys2Proof.Machine
end

section
/-! PROOFS. DRW (R181-R185), once and twice. -/

namespace Sys2Proof.Machine

/-- A pixel differs from itself flipped by `b` exactly when `b`. -/
theorem xor_ne_left_iff : ∀ {a b : Bool}, (a ^^ b) ≠ a ↔ b = true := by decide

/-- A pixel flipped twice or not at all is as it was. -/
theorem eq_of_ne_iff_ne : ∀ {a b c : Bool}, (c ≠ b ↔ b ≠ a) → c = a := by decide

section
variable {s : State} {x y : Reg} {n : Nibble} {cx cy : Nat}

/-- A 1 bit lands on a pixel exactly when it is on the grid and the loops of R181 plot a 1 there. -/
theorem plots_iff_mem_spritePlots : s.plots x y n cx cy ↔ onGrid cx cy = true ∧
    (cx, cy, true) ∈ spritePlots (spriteX (s.readV x)) (spriteY (s.readV y)) (s.spriteRows n) := by
  have hrow : ∀ r (h : r < (s.spriteRows n).length), (s.spriteRows n)[r] = s.memRead (s.indexAddr r) :=
    fun r h => Memory.loadList_getElem s.mem (s.indexAddr 0) n.toNat r h
  have hlen : (s.spriteRows n).length = n.toNat := Memory.loadList_length _ _ _
  rw [onGrid_iff, mem_spritePlots]
  simp only [Prod.mk.injEq, hrow, hlen]
  constructor
  · rintro ⟨r, hr, c, hc, hx, hy, hx63, hy31, hbit⟩
    exact ⟨⟨by omega, by omega⟩, r, hr, c, hc, hx, hy, hbit.symm⟩
  · rintro ⟨⟨hx64, hy32⟩, r, hr, c, hc, hx, hy, hbit⟩
    exact ⟨r, hr, c, hc, hx, hy, by omega, by omega, hbit.symm⟩

/-- The drawn screen differs from the old one where a 1 bit lands. -/
theorem drawn_pixel_ne_iff :
    (s.drawn x y n).1.pixel cx cy ≠ s.fb.pixel cx cy ↔ s.plots x y n cx cy := by
  rw [State.drawn, plotSprite_eq_plotAll, plotAll_pixel _ _ _ _ (spritePlots_distinct _ _ _),
    plots_iff_mem_spritePlots, xor_ne_left_iff, Bool.and_eq_true, decide_eq_true_iff]

/-- Drawing collides where a 1 bit lands on a lit pixel. -/
theorem drawn_collides_iff :
    (s.drawn x y n).2 = true ↔ ∃ cx cy, s.plots x y n cx cy ∧ s.fb.pixel cx cy = true := by
  rw [State.drawn, plotSprite_eq_plotAll, plotAll_collision _ _ (spritePlots_distinct _ _ _)]
  simp [plots_iff_mem_spritePlots, and_assoc, and_left_comm]

/-- Where a sprite lands depends on Vx, Vy, I and memory. -/
theorem plots_congr {t : State} (hx : t.readV x = s.readV x) (hy : t.readV y = s.readV y) (hi : t.i = s.i)
    (hmem : SameMem s t) : t.plots x y n cx cy ↔ s.plots x y n cx cy := by
  simp only [State.plots, State.indexAddr, hx, hy, hi, hmem _]

end

theorem exec_drw (x y : Reg) (n : Nibble) (s : State) : exec (.drw x y n) s =
    (s.showScreen (s.drawn x y n).1).result VF (flagByte (s.drawn x y n).2) := rfl

/-- Settles O38: DRW shows the drawn screen and writes the collision to VF as a result without a flag of its own. -/
theorem drawSprite : Obligations.DrawSprite := by
  unfold Obligations.DrawSprite
  intro x y n s
  obtain ⟨t, ht, hVF, hpc, ⟨hregs, hstack, htimers, ⟨hfb, hredraw⟩, hmem, hinputs, hdiag⟩, hi⟩ :=
    (s.showScreen (s.drawn x y n).1).result_spec VF (flagByte (s.drawn x y n).2)
  refine ⟨t, (exec_drw x y n s).trans ht, fun cx cy => ?_, fun hhit => ?_, fun hmiss => ?_, hredraw, hpc, hi, hregs,
    hstack, htimers, hmem, hinputs, hdiag⟩
  · rw [hfb, State.showScreen_fb, drawn_pixel_ne_iff]
  · rw [hVF, drawn_collides_iff.2 hhit]; rfl
  · have hno : (s.drawn x y n).2 = false := by
      rw [← Bool.not_eq_true, drawn_collides_iff]
      rintro ⟨cx, cy, hplots, hlit⟩
      rw [hmiss cx cy hplots] at hlit
      cases hlit
    rw [hVF, hno]; rfl

/-- Settles O39: the sprite lands at the same pixels twice, so each is flipped twice or not at all; from a clear screen
the first draw meets no lit pixel, and the second meets those that the first lit. -/
theorem drawTwiceRestores : Obligations.DrawTwiceRestores := by
  unfold Obligations.DrawTwiceRestores
  intro x y n s hx hy
  obtain ⟨t, ht, hflip, -, hmiss, -, -, hi, hregs, -, -, hmem, -⟩ := drawSprite x y n s
  obtain ⟨u, hu, hflip', hhit', hmiss', -⟩ := drawSprite x y n t
  have hplots : ∀ cx cy, t.plots x y n cx cy ↔ s.plots x y n cx cy := fun cx cy =>
    plots_congr (hregs x (by simpa using hx)) (hregs y (by simpa using hy)) hi hmem
  refine ⟨t, u, ht, hu, fun cx cy => ?_, fun hclear => ⟨hmiss fun cx cy _ => hclear cx cy, fun hVF => ?_, ?_⟩⟩
  · exact eq_of_ne_iff_ne (((hflip' cx cy).trans (hplots cx cy)).trans (hflip cx cy).symm)
  · by_contra hnone
    have hVF' : u.readV VF = 0#8 := hmiss' fun cx cy h => absurd ⟨cx, cy, (hplots cx cy).1 h⟩ hnone
    rw [hVF'] at hVF
    exact absurd hVF (by decide)
  · rintro ⟨cx, cy, h⟩
    have hlit : t.fb.pixel cx cy = true := by
      have hne := (hflip cx cy).2 h
      rwa [hclear cx cy, ne_eq, Bool.not_eq_false] at hne
    exact hhit' ⟨cx, cy, (hplots cx cy).2 h, hlit⟩

end Sys2Proof.Machine
end
